-- ==== Sys2Proof/Word.lean ====
section
/-! DEFINITION. The word types of the block (spec/00_scope.md R6, R8): registers and timestamps of 32 bits, duration
entries of 16 bits, slot numbers of 8 bits. Every value is unsigned (R12). -/

namespace Sys2Proof

/-- A register, a timestamp or a command word: 32 bits (R6). -/
abbrev Word := BitVec 32

/-- A duration entry or an index: 16 bits (R6). -/
abbrev Entry := BitVec 16

/-- A bank slot number or label: 8 bits (R26, R82). -/
abbrev SlotNo := BitVec 8

end Sys2Proof
end

