-- ==== Sys2Proof/Syntax.lean ====
section
/-! DEFINITION. The encoded items of the block and the instructions they stand for (spec/30_encoding.md): one constructor
of `Instr` for each row of spec/opcode_table.json. A write carries its 32-bit `wdata`; TX_BANK carries its slot (R82). -/

namespace Sys2Proof

/-- One constructor per row of spec/opcode_table.json: the 41 access codes of R84 and the 7 command words of R85. -/
inductive Instr where
  | rdStatus
  | wrStatus (wdata : Word)
  | rdIrqEn
  | wrIrqEn (wdata : Word)
  | wrCmd (wdata : Word)
  | rdTime
  | rdCapCount
  | rdCapTotalMs
  | rdCapIndex
  | wrCapIndex (wdata : Word)
  | rdCapData
  | rdLastEdgeTs
  | rdLastDebounceTs
  | rdSessionStartTs
  | rdBankSize
  | rdBankSel
  | wrBankSel (wdata : Word)
  | rdBankCount
  | rdBankTotalMs
  | rdBankLabel
  | rdBankIndex
  | wrBankIndex (wdata : Word)
  | rdBankData
  | rdTxCarrierHz
  | wrTxCarrierHz (wdata : Word)
  | rdTxCount
  | wrTxCount (wdata : Word)
  | rdTxIndex
  | wrTxIndex (wdata : Word)
  | rdTxData
  | wrTxData (wdata : Word)
  | rdTxSeg
  | rdTxHalfUs
  | rdParamCapacity
  | rdParamBankCap
  | rdParamMinValidCount
  | rdParamDebounceUs
  | rdParamMinPulseUs
  | rdParamMaxPulseUs
  | rdParamSilenceGapUs
  | rdParamTickPeriodUs
  | nop
  | start
  | stop
  | reset
  | collect
  | txBank (slot : SlotNo)
  | txBuf
deriving DecidableEq, Repr

/-- An encoded item of one of the two formats of R80: an access code `A = {W, offset[7:0]}` with its `wdata` (R81), or a
command word (R82). -/
inductive Item where
  | bus (code : BitVec 9) (wdata : Word)
  | cmd (word : Word)
deriving DecidableEq, Repr

/-- A host access as the bus delivers it: direction (`true` for a write), byte address, size in bytes, and the data of a
write (R210). -/
structure BusAccess where
  write : Bool
  addr : Nat
  size : Nat
  wdata : Word
deriving DecidableEq, Repr

/-- What the environment does next (R21, R110, R112, R210, R261): the host issues an access; a microsecond passes with
`ir_in` sampled at `level`; or `rst` is driven to a level (`true` is asserted). -/
inductive Input where
  | access (a : BusAccess)
  | microsecond (level : Bool)
  | rstLevel (level : Bool)
deriving DecidableEq, Repr

/-- Why an access (R87) or a command word (R86) is not decoded. -/
inductive Reject where
  /-- The access is not of 4 bytes. -/
  | badSize
  /-- `offset[1:0]` is not 0. -/
  | misaligned
  /-- The offset is one of 0x80 to 0xFC. -/
  | reservedOffset
  /-- A read of CMD. -/
  | writeOnly
  /-- A write of a register that R84 marks refused. -/
  | readOnly
  /-- OP is 0x07 to 0xFF. -/
  | reservedOp
  /-- RSV is not 0. -/
  | reservedField
  /-- ARG is not 0 and OP is not TX_BANK. -/
  | argNotZero
deriving DecidableEq, Repr

end Sys2Proof
end

