-- ==== Sys2Proof/WellFormed.lean ====
section
/-! DEFINITION. Which encoded items are legal, stated apart from the decoder (spec/30_encoding.md R81, R84, R86, R87). An
`Instr` itself has no ill-formed term: its operands are exactly the fields of R82 and R83, at their widths. -/

namespace Sys2Proof

/-- The offsets of the registers that R84 lets a host write. -/
def writableOffsets : List Nat := [0x00, 0x04, 0x08, 0x18, 0x30, 0x40, 0x48, 0x4C, 0x50, 0x54]

/-- The offset of an access code is a multiple of 4 (R81). -/
def codeAligned (code : BitVec 9) : Bool := (code.extractLsb' 0 2).toNat == 0

/-- The offset of an access code is below the reserved range (R84). -/
def codeInRegisters (code : BitVec 9) : Bool := decide ((code.extractLsb' 0 8).toNat < 0x80)

/-- The register takes an access of this direction (R84): every register but CMD is read, ten are written. -/
def codeDirectionAllowed (code : BitVec 9) : Bool :=
  if code.getLsbD 8 then writableOffsets.contains (code.extractLsb' 0 8).toNat
  else (code.extractLsb' 0 8).toNat != 0x08

/-- An access code that R84 does not refuse. -/
def codeWellFormed (code : BitVec 9) : Bool :=
  codeAligned code && codeInRegisters code && codeDirectionAllowed code

/-- OP is a command of R85. -/
def commandOpKnown (w : Word) : Bool := decide ((w.extractLsb' 0 8).toNat ≤ 6)

/-- ARG is 0 unless OP is TX_BANK (R85). -/
def commandArgAllowed (w : Word) : Bool := w.extractLsb' 8 8 == 0#8 || w.extractLsb' 0 8 == 5#8

/-- RSV is 0 (R82). -/
def commandRsvZero (w : Word) : Bool := w.extractLsb' 16 16 == 0#16

/-- A command word that R86 does not call illegal. -/
def commandWellFormed (w : Word) : Bool := commandOpKnown w && commandArgAllowed w && commandRsvZero w

/-- An item of either format (R80) that decodes. -/
def itemWellFormed : Item → Bool
  | .bus code _ => codeWellFormed code
  | .cmd word => commandWellFormed word

/-- The address of an access lies in the window (R60). -/
def inWindow (base : Nat) (a : BusAccess) : Bool := decide (base ≤ a.addr ∧ a.addr < base + 0x100)

/-- The only size the block accepts (R63). -/
def sizeAccepted (a : BusAccess) : Bool := a.size == 4

end Sys2Proof
end

