-- ==== Sys2Proof/Decode.lean ====
section
/-! DEFINITION. The decoder of both formats, total and rejecting by name, and the encoder (spec/30_encoding.md R80 to R86).
The table's numbering of an item's bits: format BUS has `A` in bits 8:0, zeros in 15:9 and `wdata` in 47:16 (the table gives
`wdata` no bits); format CMD is the 32-bit word. The two are told apart by their width (log entry 6). -/

namespace Sys2Proof

/-- The access code `{W, offset[7:0]}` (R81). -/
def busCode (write : Bool) (offset : BitVec 8) : BitVec 9 := BitVec.ofBool write ++ offset

/-- W, bit 8 of the access code (R81). -/
def codeWrite (code : BitVec 9) : Bool := code.getLsbD 8

/-- `offset[7:0]` of the access code (R81). -/
def codeOffset (code : BitVec 9) : BitVec 8 := code.extractLsb' 0 8

/-- OP, bits 7:0 of a command word (R82). -/
def commandOp (w : Word) : BitVec 8 := w.extractLsb' 0 8

/-- ARG, bits 15:8 of a command word (R82). -/
def commandArg (w : Word) : BitVec 8 := w.extractLsb' 8 8

/-- RSV, bits 31:16 of a command word (R82). -/
def commandRsv (w : Word) : BitVec 16 := w.extractLsb' 16 16

/-- The command word {RSV = 0, ARG, OP} (R82). -/
def commandWord (op arg : BitVec 8) : Word := 0#16 ++ arg ++ op

/-- The read column of R84. -/
def decodeRead (offset : Nat) : Except Reject Instr :=
  match offset with
  | 0x00 => .ok .rdStatus
  | 0x04 => .ok .rdIrqEn
  | 0x08 => .error .writeOnly
  | 0x0C => .ok .rdTime
  | 0x10 => .ok .rdCapCount
  | 0x14 => .ok .rdCapTotalMs
  | 0x18 => .ok .rdCapIndex
  | 0x1C => .ok .rdCapData
  | 0x20 => .ok .rdLastEdgeTs
  | 0x24 => .ok .rdLastDebounceTs
  | 0x28 => .ok .rdSessionStartTs
  | 0x2C => .ok .rdBankSize
  | 0x30 => .ok .rdBankSel
  | 0x34 => .ok .rdBankCount
  | 0x38 => .ok .rdBankTotalMs
  | 0x3C => .ok .rdBankLabel
  | 0x40 => .ok .rdBankIndex
  | 0x44 => .ok .rdBankData
  | 0x48 => .ok .rdTxCarrierHz
  | 0x4C => .ok .rdTxCount
  | 0x50 => .ok .rdTxIndex
  | 0x54 => .ok .rdTxData
  | 0x58 => .ok .rdTxSeg
  | 0x5C => .ok .rdTxHalfUs
  | 0x60 => .ok .rdParamCapacity
  | 0x64 => .ok .rdParamBankCap
  | 0x68 => .ok .rdParamMinValidCount
  | 0x6C => .ok .rdParamDebounceUs
  | 0x70 => .ok .rdParamMinPulseUs
  | 0x74 => .ok .rdParamMaxPulseUs
  | 0x78 => .ok .rdParamSilenceGapUs
  | 0x7C => .ok .rdParamTickPeriodUs
  | _ => .error .reservedOffset

/-- The write column of R84. -/
def decodeWrite (offset : Nat) (wdata : Word) : Except Reject Instr :=
  match offset with
  | 0x00 => .ok (.wrStatus wdata)
  | 0x04 => .ok (.wrIrqEn wdata)
  | 0x08 => .ok (.wrCmd wdata)
  | 0x18 => .ok (.wrCapIndex wdata)
  | 0x30 => .ok (.wrBankSel wdata)
  | 0x40 => .ok (.wrBankIndex wdata)
  | 0x48 => .ok (.wrTxCarrierHz wdata)
  | 0x4C => .ok (.wrTxCount wdata)
  | 0x50 => .ok (.wrTxIndex wdata)
  | 0x54 => .ok (.wrTxData wdata)
  | _ => .error .readOnly

/-- Format BUS: an access code and its `wdata` (R81, R84, R87). -/
def decodeBus (code : BitVec 9) (wdata : Word) : Except Reject Instr :=
  if (codeOffset code).toNat % 4 ≠ 0 then .error .misaligned
  else if 0x80 ≤ (codeOffset code).toNat then .error .reservedOffset
  else if codeWrite code then decodeWrite (codeOffset code).toNat wdata
  else decodeRead (codeOffset code).toNat

/-- Format CMD: a command word (R82, R85, R86). -/
def decodeCmd (w : Word) : Except Reject Instr :=
  if commandRsv w ≠ 0#16 then .error .reservedField
  else if 6 < (commandOp w).toNat then .error .reservedOp
  else if commandArg w ≠ 0#8 ∧ commandOp w ≠ 5#8 then .error .argNotZero
  else
    match (commandOp w).toNat with
    | 0 => .ok .nop
    | 1 => .ok .start
    | 2 => .ok .stop
    | 3 => .ok .reset
    | 4 => .ok .collect
    | 5 => .ok (.txBank (commandArg w))
    | _ => .ok .txBuf

/-- The instruction an item stands for. -/
def decodeItem : Item → Except Reject Instr
  | .bus code wdata => decodeBus code wdata
  | .cmd word => decodeCmd word

/-- The instruction of a host access at an offset of the window, with the size attribute of R81. -/
def decodeAccess (write : Bool) (offset : BitVec 8) (size : Nat) (wdata : Word) : Except Reject Instr :=
  if size ≠ 4 then .error .badSize else decodeBus (busCode write offset) wdata

/-- The item an instruction is encoded as (R84, R85); a read's `wdata` is nothing the block sees, and is 0 here. -/
def encode : Instr → Item
  | .rdStatus => .bus 0x000#9 0#32
  | .wrStatus wdata => .bus 0x100#9 wdata
  | .rdIrqEn => .bus 0x004#9 0#32
  | .wrIrqEn wdata => .bus 0x104#9 wdata
  | .wrCmd wdata => .bus 0x108#9 wdata
  | .rdTime => .bus 0x00C#9 0#32
  | .rdCapCount => .bus 0x010#9 0#32
  | .rdCapTotalMs => .bus 0x014#9 0#32
  | .rdCapIndex => .bus 0x018#9 0#32
  | .wrCapIndex wdata => .bus 0x118#9 wdata
  | .rdCapData => .bus 0x01C#9 0#32
  | .rdLastEdgeTs => .bus 0x020#9 0#32
  | .rdLastDebounceTs => .bus 0x024#9 0#32
  | .rdSessionStartTs => .bus 0x028#9 0#32
  | .rdBankSize => .bus 0x02C#9 0#32
  | .rdBankSel => .bus 0x030#9 0#32
  | .wrBankSel wdata => .bus 0x130#9 wdata
  | .rdBankCount => .bus 0x034#9 0#32
  | .rdBankTotalMs => .bus 0x038#9 0#32
  | .rdBankLabel => .bus 0x03C#9 0#32
  | .rdBankIndex => .bus 0x040#9 0#32
  | .wrBankIndex wdata => .bus 0x140#9 wdata
  | .rdBankData => .bus 0x044#9 0#32
  | .rdTxCarrierHz => .bus 0x048#9 0#32
  | .wrTxCarrierHz wdata => .bus 0x148#9 wdata
  | .rdTxCount => .bus 0x04C#9 0#32
  | .wrTxCount wdata => .bus 0x14C#9 wdata
  | .rdTxIndex => .bus 0x050#9 0#32
  | .wrTxIndex wdata => .bus 0x150#9 wdata
  | .rdTxData => .bus 0x054#9 0#32
  | .wrTxData wdata => .bus 0x154#9 wdata
  | .rdTxSeg => .bus 0x058#9 0#32
  | .rdTxHalfUs => .bus 0x05C#9 0#32
  | .rdParamCapacity => .bus 0x060#9 0#32
  | .rdParamBankCap => .bus 0x064#9 0#32
  | .rdParamMinValidCount => .bus 0x068#9 0#32
  | .rdParamDebounceUs => .bus 0x06C#9 0#32
  | .rdParamMinPulseUs => .bus 0x070#9 0#32
  | .rdParamMaxPulseUs => .bus 0x074#9 0#32
  | .rdParamSilenceGapUs => .bus 0x078#9 0#32
  | .rdParamTickPeriodUs => .bus 0x07C#9 0#32
  | .nop => .cmd (commandWord 0#8 0#8)
  | .start => .cmd (commandWord 1#8 0#8)
  | .stop => .cmd (commandWord 2#8 0#8)
  | .reset => .cmd (commandWord 3#8 0#8)
  | .collect => .cmd (commandWord 4#8 0#8)
  | .txBank slot => .cmd (commandWord 5#8 slot)
  | .txBuf => .cmd (commandWord 6#8 0#8)

/-- The item whose bits, in the table's numbering, are `w`: 32 bits are a command word, any other width an access code
with the `wdata` above it. -/
def itemOfWord (nbits w : Nat) : Option Item :=
  if nbits = 32 then
    if w < 2 ^ 32 then some (.cmd (BitVec.ofNat 32 w)) else none
  else if w < 2 ^ 48 ∧ w / 2 ^ 9 % 2 ^ 7 = 0 then
    some (.bus (BitVec.ofNat 9 w) (BitVec.ofNat 32 (w / 2 ^ 16)))
  else none

/-- The bits of an item in the table's numbering, with their number: the widths are 16 for a read, 48 for a write with its
`wdata`, and 32 for a command word. -/
def wordOfItem : Item → Nat × Nat
  | .bus code wdata =>
    if codeWrite code then (48, code.toNat + 2 ^ 16 * wdata.toNat) else (16, code.toNat)
  | .cmd word => (32, word.toNat)

/-- The bits of an instruction in the table's numbering, with their number. -/
def encodeWord (i : Instr) : Nat × Nat := wordOfItem (encode i)

/-- The instruction the decoder reads from an item whose bits are `w`, numbered as spec/opcode_table.json numbers them. -/
def decodeTableWord (nbits w : Nat) : Option Instr :=
  match itemOfWord nbits w with
  | none => none
  | some item =>
    match decodeItem item with
    | .ok i => some i
    | .error _ => none

/-- The host access that delivers an item to a block whose window starts at `base`: an access of its code, or the write of
its word to CMD (R80). -/
def accessOfItem (base : Nat) : Item → BusAccess
  | .bus code wdata => ⟨codeWrite code, base + (codeOffset code).toNat, 4, wdata⟩
  | .cmd word => ⟨true, base + 0x08, 4, word⟩

end Sys2Proof
end

