-- ==== Sys2Proof/Config.lean ====
section
/-! DEFINITION. What an implementation fixes (spec/00_scope.md R5) and the values the spec leaves open
(spec/93_implementation_defined.md). The parameters are plain data that State carries unchanged (log entry 1); the open
values are constants with no body, so nothing can be proved of a value of theirs (log entries 4 and 5). -/

namespace Sys2Proof.Config

/-- The parameters of the built block, rule R5. -/
structure Params where
  /-- CAPACITY: entries in the capture buffer, in a bank slot and in the TX buffer. -/
  capacity : Nat
  /-- BANK_CAP: slots in the signal bank. -/
  bankCap : Nat
  /-- MIN_VALID_COUNT: a sequence needs a larger count to be finalised by silence and stored. -/
  minValidCount : Nat
  /-- DEBOUNCE_US: minimum spacing of accepted edges. -/
  debounceUs : Nat
  /-- MIN_PULSE_US: shortest duration appended. -/
  minPulseUs : Nat
  /-- MAX_PULSE_US: longest duration appended. -/
  maxPulseUs : Nat
  /-- SILENCE_GAP_US: silence after which a frame ends. -/
  silenceGapUs : Nat
  /-- TICK_PERIOD_US: period of the frame-completion detector. -/
  tickPeriodUs : Nat
  /-- TICK_PHASE: reset value of the tick divider. -/
  tickPhase : Nat
  /-- BASE: bus address of register offset 0x00. -/
  base : Nat
deriving DecidableEq, Repr

/-- The reference configuration of R5. BASE is OPEN there; 0 is a DESIGN CHOICE (unsafe, log entry 2). -/
def Params.reference : Params where
  capacity := 1024
  bankCap := 5
  minValidCount := 10
  debounceUs := 20
  minPulseUs := 20
  maxPulseUs := 10000
  silenceGapUs := 10000
  tickPeriodUs := 5000
  tickPhase := 0
  base := 0

/-- The legal ranges of R5, with its two constraints MIN_VALID_COUNT < CAPACITY and MAX_PULSE_US ≤ 65535. -/
abbrev Params.Legal (p : Params) : Prop :=
  (1 ≤ p.capacity ∧ p.capacity ≤ 65535) ∧ (1 ≤ p.bankCap ∧ p.bankCap ≤ 255) ∧
  p.minValidCount < p.capacity ∧ p.debounceUs ≤ 65535 ∧
  p.minPulseUs ≤ p.maxPulseUs ∧ p.maxPulseUs ≤ 65535 ∧ p.silenceGapUs < 2 ^ 31 ∧
  (1 ≤ p.tickPeriodUs ∧ p.tickPeriodUs < 2 ^ 31) ∧ p.tickPhase < p.tickPeriodUs ∧ p.base % 256 = 0

/-- `CapBuf[i]` where nothing has been written since hardware reset number `epoch`: any value (U2, U3). Safe. -/
opaque capBufFree (epoch i : Nat) : Entry

/-- `TxBuf[i]` where nothing has been written since hardware reset number `epoch`: any value (R27, R30, U1, U3). Safe. -/
opaque txBufFree (epoch i : Nat) : Entry

/-- `Bank[k].count` of a slot not filled since hardware reset number `epoch`: any value (R26, U2, U3). Safe. -/
opaque bankCountFree (epoch k : Nat) : Entry

/-- `Bank[k].total_ms` of a slot not filled since hardware reset number `epoch`: any value (R26, U2, U3). Safe. -/
opaque bankTotalFree (epoch k : Nat) : Word

/-- `Bank[k].label` of a slot not filled since hardware reset number `epoch`: any value (R26, U2, U3). Safe. -/
opaque bankLabelFree (epoch k : Nat) : SlotNo

/-- `Bank[k].dur[i]` where nothing has been written since hardware reset number `epoch`: any value (R26, U2, U3). Safe. -/
opaque bankDurFree (epoch k i : Nat) : Entry

/-- The level of `ir_in` at a microsecond for which the environment's list supplies none: any level (R112, U14). Safe. -/
opaque irInFree (n : Nat) : Bool

end Sys2Proof.Config
end

