-- ==== Sys2Proof/Machine/State.lean ====
section
/-! DEFINITION. The state of the block as plain data, in the groups of spec/10_state.md (R22, R23, R26, R27, R28), with the
ports (R21) and the model's own fields; why a step can stop; and the state after reset (spec/70_reset_and_hazards.md R260). -/

namespace Sys2Proof.Machine

/-- A memory indexed by entry number (R61): the entries written since hardware reset, in strictly rising index order. An
entry that is not listed has no value of its own; what a read of it gives is a free value of `Config` (log entries 4 and 7). -/
abbrev Memory (α : Type) := List (Nat × α)

/-- Time base state (R22). -/
structure TimeBase where
  /-- `s.now`: the free-running microsecond counter. -/
  now : Word
  /-- `s.tick_div`: the divider that fires the frame detector. -/
  tickDiv : Word
  /-- `s.in_prev`: the last sampled level of `ir_in`. -/
  inPrev : Bool
deriving DecidableEq, Repr

/-- The CaptureSession (R23). -/
structure Session where
  /-- `s.cap_en`: edges are processed only while it is 1. -/
  capEn : Bool
  /-- `s.capturing`: a capture is in progress. -/
  capturing : Bool
  /-- `s.ready`: a finalised sequence waits for collection. -/
  ready : Bool
  /-- `s.complete`: the in-flight sequence is finalised. -/
  complete : Bool
  /-- `s.count`: valid entries in CapBuf. -/
  count : Entry
  /-- `s.total_ms`: span of the capture in ms, set at finalisation. -/
  totalMs : Word
  /-- `s.last_edge`: time of the last accepted edge. -/
  lastEdge : Word
  /-- `s.last_db`: time of the last edge that passed the debounce check. -/
  lastDb : Word
  /-- `s.last_level`: sampled level at the last accepted edge. -/
  lastLevel : Bool
  /-- `s.session_start`: time of the start-of-signal edge of the current session. -/
  sessionStart : Word
  /-- `CapBuf`: captured durations in µs. -/
  buf : Memory Entry
deriving DecidableEq, Repr

/-- A slot of the signal bank (R26, R161). -/
structure Slot where
  /-- `Bank[k].count`: entries in the slot. -/
  count : Entry
  /-- `Bank[k].total_ms`. -/
  totalMs : Word
  /-- `Bank[k].label`. -/
  label : SlotNo
  /-- `Bank[k].dur`: the stored durations. -/
  dur : Memory Entry
deriving DecidableEq, Repr

/-- The outcome of the last COLLECT, `s.collect_result` (R26, D14). -/
inductive CollectResult where
  | none
  | stored
  | discarded
  | full
deriving DecidableEq, Repr

/-- The signal bank (R26). -/
structure SignalBank where
  /-- `s.bank_size`: slots filled. -/
  size : SlotNo
  /-- `Bank`: the slots filled since hardware reset. -/
  slots : Memory Slot
  /-- `s.collect_result`. -/
  collectResult : CollectResult
deriving DecidableEq, Repr

/-- Transmitter state (R27). -/
structure Transmitter where
  /-- `s.tx_carrier`: carrier frequency in Hz for the next transmission. -/
  carrier : Word
  /-- `s.tx_count`: entries of TxBuf a TX_BUF command plays. -/
  count : Entry
  /-- `s.tx_index`: write pointer into TxBuf. -/
  index : Entry
  /-- `TxBuf`: the literal sequence buffer. -/
  buf : Memory Entry
  /-- `s.tx_busy`: a transmission is in progress. -/
  busy : Bool
  /-- `s.tx_use_buf`: the transmission plays TxBuf rather than bank slot `slot`. -/
  useBuf : Bool
  /-- `s.tx_slot`: bank slot being played. -/
  slot : SlotNo
  /-- `s.tx_n`: number of segments being played. -/
  n : Entry
  /-- `s.tx_idx`: index of the current segment. -/
  idx : Entry
  /-- `s.tx_half`: half-period in µs. -/
  half : Word
  /-- `s.tx_seg_start`: time the current segment began. -/
  segStart : Word
  /-- `s.tx_next`: time of the next engine event. -/
  next : Word
  /-- `s.tx_k`: parity of the current half-period within a mark (`false` high, `true` low). -/
  k : Bool
  /-- `s.ir_out`: emitter output level. -/
  irOut : Bool
deriving DecidableEq, Repr

/-- Host-visible flags and pointers (R28). -/
structure HostRegs where
  /-- `s.long`: a duration above MAX_PULSE_US was dropped. -/
  long : Bool
  /-- `s.lost`: a Ready sequence was overwritten. -/
  lost : Bool
  /-- `s.tx_done`: a transmission ended. -/
  txDone : Bool
  /-- `s.cmd_err`: a command was refused. -/
  cmdErr : Bool
  /-- `s.acc_err`: a register access was refused. -/
  accErr : Bool
  /-- `s.irq_en`: interrupt enables. -/
  irqEn : Word
  /-- `s.cap_index`: read pointer into CapBuf. -/
  capIndex : Entry
  /-- `s.bank_sel`: selected bank slot for read-out. -/
  bankSel : SlotNo
  /-- `s.bank_index`: read pointer into the selected slot. -/
  bankIndex : Entry
deriving DecidableEq, Repr

/-- The ports that are not functions of the state above (R21), and the MODEL's own fields: what the environment does next
and the counters its free values are applied to (log entries 3 to 6 and 10). -/
structure Environment where
  /-- The level of the `rst` port: `true` while hardware reset is asserted (R261). -/
  rst : Bool
  /-- The bus data the block returned on its last read (R210). Model's own. -/
  rdata : Word
  /-- What the environment does next, oldest first. Model's own. -/
  inputs : List Input
  /-- How many free `ir_in` levels have been taken. Model's own. -/
  freeCtr : Nat
  /-- How many hardware resets have been seen: free memory contents are new after each. Model's own. -/
  epoch : Nat
deriving DecidableEq, Repr

/-- The whole state. -/
structure State where
  /-- The parameters of the built block (R5): no step changes them (R221; log entry 1). -/
  cfg : Config.Params
  tb : TimeBase
  cap : Session
  bank : SignalBank
  tx : Transmitter
  host : HostRegs
  env : Environment
deriving DecidableEq, Repr

/-- Why the machine stops. No condition of the block itself does: it has no trap (60_exceptions.md R247). -/
inductive Fault where
  /-- Raised by a host access whose address is outside the window BASE to BASE+0xFF: it is no access of this block, and
  what the bus does with it is the platform's (20_memory.md R66, U6; log entry 8). Safe. -/
  | outsideWindow
deriving DecidableEq, Repr

/-- Why an instruction has no meaning. -/
inductive Refusal where
  /-- Raised by an arm of `exec` that has no meaning yet; no arm is one. Safe. -/
  | notModelled (mnemonic : String)
deriving DecidableEq, Repr

/-- The time base after hardware reset (R260). -/
def TimeBase.reset (cfg : Config.Params) : TimeBase where
  now := 0
  tickDiv := BitVec.ofNat 32 cfg.tickPhase
  inPrev := true

/-- The capture session after hardware reset (R260); CapBuf's contents are unspecified. -/
def Session.reset : Session where
  capEn := false
  capturing := false
  ready := false
  complete := false
  count := 0
  totalMs := 0
  lastEdge := 0
  lastDb := 0
  lastLevel := true
  sessionStart := 0
  buf := []

/-- The signal bank after hardware reset (R260); the slots' contents are unspecified. -/
def SignalBank.reset : SignalBank where
  size := 0
  slots := []
  collectResult := .none

/-- The transmitter after hardware reset (R260); TxBuf's contents are unspecified. -/
def Transmitter.reset : Transmitter where
  carrier := 38000
  count := 0
  index := 0
  buf := []
  busy := false
  useBuf := false
  slot := 0
  n := 0
  idx := 0
  half := 0
  segStart := 0
  next := 0
  k := false
  irOut := false

/-- The host-visible flags and pointers after hardware reset (R260). -/
def HostRegs.reset : HostRegs where
  long := false
  lost := false
  txDone := false
  cmdErr := false
  accErr := false
  irqEn := 0
  capIndex := 0
  bankSel := 0
  bankIndex := 0

/-- The block right after reset, in the reference configuration: `rst` deasserted, nothing pending, no time passed.
`rdata`, `freeCtr` and `epoch` are the model's own, at 0 by DESIGN CHOICE (log entries 3 to 5). -/
def State.reset : State where
  cfg := Config.Params.reference
  tb := TimeBase.reset Config.Params.reference
  cap := Session.reset
  bank := SignalBank.reset
  tx := Transmitter.reset
  host := HostRegs.reset
  env := ⟨false, 0, [], 0, 0⟩

end Sys2Proof.Machine
end

