-- ==== Sys2Proof/Machine/Operands.lean ====
section
/-! DEFINITION. The operand forms of the block: how a register value is widened to the 32-bit data bus, how the fields of
`wdata` are read, and the arithmetic on timestamps (spec/00_scope.md R8, R9, R12; spec/30_encoding.md R83). -/

namespace Sys2Proof.Machine

/-- `zext_32` (R8). -/
def zext32 (v : BitVec n) : Word := v.setWidth 32

/-- A one-bit value as a bit (R8). -/
def bit (b : Bool) : BitVec 1 := BitVec.ofBool b

/-- `wdata[15:0]` (R83). -/
def low16 (w : Word) : Entry := w.extractLsb' 0 16

/-- `wdata[31:16]` (R83). -/
def high16 (w : Word) : BitVec 16 := w.extractLsb' 16 16

/-- `wdata[7:0]` (R83). -/
def low8 (w : Word) : SlotNo := w.extractLsb' 0 8

/-- A parameter as the 32-bit unsigned number its register reads (R221). -/
def paramWord (p : Nat) : Word := BitVec.ofNat 32 p

/-- `a -_32 b` as an unsigned number, for the comparisons of R12 (R9). -/
def elapsed (a b : Word) : Nat := (a - b).toNat

/-- The duration `dur[15:0]` of R123. -/
def durationEntry (dur : Nat) : Entry := BitVec.ofNat 16 dur

/-- The half-period `1000000 / (2 * c)` in µs, truncating (R180, R187). -/
def halfPeriod (carrier : Word) : Word := BitVec.ofNat 32 (1000000 / (2 * carrier.toNat))

/-- The span of a session in whole ms (R124). -/
def spanMs (t start : Word) : Word := BitVec.ofNat 32 (elapsed t start / 1000)

/-- A segment of even index is a mark (R126, R183). -/
def isMark (i : Entry) : Bool := i.toNat % 2 == 0

/-- The offset of an access within the window, where its address lies in it (R60, R210). -/
def windowOffset (base addr : Nat) : Option (BitVec 8) :=
  if base ≤ addr ∧ addr < base + 0x100 then some (BitVec.ofNat 8 (addr - base)) else none

end Sys2Proof.Machine
end

