-- ==== Sys2Proof/Machine/Ops.lean ====
section
/-! DEFINITION. The named operations over the memories and the groups of the state: reading and writing an entry
(spec/20_memory.md R61), answering a read (R210), the two refusals (spec/60_exceptions.md R240), and the session procedures
that several rules share (spec/41_edge_capturer.md R124, R130). -/

namespace Sys2Proof.Machine

/-- Indices strictly rising: the one canonical form of a memory. -/
abbrev Memory.wf (m : Memory α) : Prop := m.Pairwise (fun x y => x.1 < y.1)

/-- The entry written at an index since hardware reset, if any. -/
def Memory.lookup : Memory α → Nat → Option α
  | [], _ => none
  | (a, v) :: m, i => if a = i then some v else Memory.lookup m i

/-- Write one entry, keeping the indices strictly rising. -/
def Memory.write : Memory α → Nat → α → Memory α
  | [], i, v => [(i, v)]
  | (a, w) :: m, i, v =>
    if i < a then (i, v) :: (a, w) :: m
    else if i = a then (i, v) :: m
    else (a, w) :: Memory.write m i v

/-- Replace the time base. -/
def State.setTb (s : State) (x : TimeBase) : State := { s with tb := x }

/-- Replace the capture session. -/
def State.setCap (s : State) (x : Session) : State := { s with cap := x }

/-- Replace the signal bank. -/
def State.setBank (s : State) (x : SignalBank) : State := { s with bank := x }

/-- Replace the transmitter. -/
def State.setTx (s : State) (x : Transmitter) : State := { s with tx := x }

/-- Replace the host-visible flags and pointers. -/
def State.setHost (s : State) (x : HostRegs) : State := { s with host := x }

/-- Replace the environment. -/
def State.setEnv (s : State) (x : Environment) : State := { s with env := x }

/-- `CapBuf[i]` (R61); any value where nothing has been written since reset (R30). -/
def State.capEntry (s : State) (i : Nat) : Entry :=
  (s.cap.buf.lookup i).getD (Config.capBufFree s.env.epoch i)

/-- `TxBuf[i]` (R61); any value where nothing has been written since reset (R30). -/
def State.txEntry (s : State) (i : Nat) : Entry :=
  (s.tx.buf.lookup i).getD (Config.txBufFree s.env.epoch i)

/-- `Bank[k]` (R61); any contents where nothing has been stored since reset (R30). -/
def State.slotAt (s : State) (k : Nat) : Slot :=
  (s.bank.slots.lookup k).getD
    ⟨Config.bankCountFree s.env.epoch k, Config.bankTotalFree s.env.epoch k, Config.bankLabelFree s.env.epoch k, []⟩

/-- `Bank[k].dur[i]` (R61); any value where nothing has been stored since reset (R30). -/
def State.bankEntry (s : State) (k i : Nat) : Entry :=
  ((s.slotAt k).dur.lookup i).getD (Config.bankDurFree s.env.epoch k i)

/-- Entry `i` of the sequence being transmitted, `seq(i)` of R183. -/
def State.seq (s : State) (i : Nat) : Entry :=
  if s.tx.useBuf then s.txEntry i else s.bankEntry s.tx.slot.toNat i

/-- Answer a read with a value (R210). -/
def State.respond (s : State) (v : Word) : State := s.setEnv { s.env with rdata := v }

/-- `raise CmdError` (R240): the flag, and nothing else. -/
def State.raiseCmdErr (s : State) : State := s.setHost { s.host with cmdErr := true }

/-- `raise AccError` (R240): the flag, and nothing else. -/
def State.raiseAccErr (s : State) : State := s.setHost { s.host with accErr := true }

/-- A refused access (R242): AccError, and a refused read returns 0. -/
def State.refuseAccess (s : State) (write : Bool) : State :=
  if write then s.raiseAccErr else s.raiseAccErr.respond 0

/-- The session reset (R130). -/
def State.sessionReset (s : State) : State :=
  s.setCap { s.cap with capturing := false, ready := false, complete := false, count := 0, totalMs := 0 }

/-- Finalisation at time `t` (R124), shared by the overflow path and the detector. -/
def State.finalize (s : State) (t : Word) : State :=
  s.setCap { s.cap with
    totalMs := spanMs t s.cap.sessionStart, complete := true, capturing := false, ready := true }

/-- The slot `s.bank_sel` where it is filled (R167, R168). -/
def State.selectedSlot (s : State) : Option Slot :=
  if s.host.bankSel < s.bank.size then some (s.slotAt s.host.bankSel.toNat) else none

end Sys2Proof.Machine
end

