-- ==== Sys2Proof/Machine/Flags.lean ====
section
/-! DEFINITION. The STATUS word, its write-1-to-clear, IRQ_EN, the interrupt line and the output ports
(spec/10_state.md R21, R31, R32; spec/45_host_interface.md R214 to R216; spec/60_exceptions.md R243). -/

namespace Sys2Proof.Machine

/-- The 2-bit code of COLLECT_RESULT (R26). -/
def CollectResult.code : CollectResult → BitVec 2
  | .none => 0
  | .stored => 1
  | .discarded => 2
  | .full => 3

/-- BANK_FULL, the source's `isFull()` (R163). -/
def State.bankFull (s : State) : Bool := decide (s.bank.size.toNat = s.cfg.bankCap)

/-- The STATUS word (R31, R214), most significant field first. -/
def State.statusWord (s : State) : Word :=
  0#11 ++ bit s.host.accErr ++ bit s.host.cmdErr ++ bit s.host.txDone ++ bit s.host.lost ++ bit s.host.long ++
  0#6 ++ s.bank.collectResult.code ++ bit s.tb.inPrev ++ bit s.cap.lastLevel ++ bit s.bankFull ++
  bit s.tx.busy ++ bit s.cap.capEn ++ bit s.cap.complete ++ bit s.cap.ready ++ bit s.cap.capturing

/-- A sticky flag after a write to STATUS: cleared where its bit of `wdata` is 1 (R215). -/
def clearedBy (flag : Bool) (wdata : Word) (b : Nat) : Bool := flag && !wdata.getLsbD b

/-- Write-1-to-clear of the five sticky flags (R215). -/
def State.clearSticky (s : State) (wdata : Word) : State :=
  s.setHost { s.host with
    long := clearedBy s.host.long wdata 16
    lost := clearedBy s.host.lost wdata 17
    txDone := clearedBy s.host.txDone wdata 18
    cmdErr := clearedBy s.host.cmdErr wdata 19
    accErr := clearedBy s.host.accErr wdata 20 }

/-- The writable bits of IRQ_EN: 1 and 16 to 20 (R32, R216). -/
def irqEnMask : Word := 0x001F0002

/-- The interrupt line (R243). -/
def State.irq (s : State) : Bool :=
  (s.cap.ready && s.host.irqEn.getLsbD 1) || (s.host.long && s.host.irqEn.getLsbD 16) ||
  (s.host.lost && s.host.irqEn.getLsbD 17) || (s.host.txDone && s.host.irqEn.getLsbD 18) ||
  (s.host.cmdErr && s.host.irqEn.getLsbD 19) || (s.host.accErr && s.host.irqEn.getLsbD 20)

/-- The port `ir_out` (R21). -/
def State.irOutPort (s : State) : Bool := s.tx.irOut

/-- The port `tx_active` (R21). -/
def State.txActivePort (s : State) : Bool := s.tx.busy

end Sys2Proof.Machine
end

