-- ==== Sys2Proof/Machine/Bank.lean ====
section
/-! DEFINITION. The signal bank: COLLECT and the bank read-out registers (spec/43_signal_bank.md R160 to R168). -/

namespace Sys2Proof.Machine

/-- Entries 0 to n-1 of `f` written over `m`, in index order (R162). -/
def copyEntries (f : Nat → Entry) (m : Memory Entry) : Nat → Memory Entry
  | 0 => m
  | n + 1 => (copyEntries f m n).write n (f n)

/-- The slot that COLLECT fills at index `k` (R161, R162). -/
def State.collectedSlot (s : State) (k : Nat) : Slot where
  count := s.cap.count
  totalMs := s.cap.totalMs
  label := BitVec.ofNat 8 k
  dur := copyEntries s.capEntry (s.slotAt k).dur s.cap.count.toNat

/-- Set `s.collect_result` (R162). -/
def State.setCollectResult (s : State) (r : CollectResult) : State := s.setBank { s.bank with collectResult := r }

/-- CmdCollect (R162). -/
def cmdCollect (s : State) : State :=
  if s.cap.ready = false then s.setCollectResult .none
  else if s.cap.count.toNat ≤ s.cfg.minValidCount then s.sessionReset.setCollectResult .discarded
  else if s.bankFull then s.setCollectResult .full
  else
    let k := s.bank.size.toNat
    let s := s.setBank { s.bank with slots := s.bank.slots.write k (s.collectedSlot k), size := s.bank.size + 1 }
    s.sessionReset.setCollectResult .stored

/-- COLLECT (R162). -/
def execCollect (s : State) : Host.Outcome State Fault Refusal := .next (cmdCollect s)

/-- RD_BANK_SIZE (R165). -/
def execRdBankSize (s : State) : Host.Outcome State Fault Refusal := .next (s.respond (zext32 s.bank.size))

/-- RD_BANK_SEL (R166). -/
def execRdBankSel (s : State) : Host.Outcome State Fault Refusal := .next (s.respond (zext32 s.host.bankSel))

/-- WR_BANK_SEL (R166). -/
def execWrBankSel (wdata : Word) (s : State) : Host.Outcome State Fault Refusal :=
  .next (s.setHost { s.host with bankSel := low8 wdata })

/-- RD_BANK_COUNT (R167). -/
def execRdBankCount (s : State) : Host.Outcome State Fault Refusal :=
  .next (s.respond (match s.selectedSlot with | some slot => zext32 slot.count | none => 0))

/-- RD_BANK_TOTAL_MS (R167). -/
def execRdBankTotalMs (s : State) : Host.Outcome State Fault Refusal :=
  .next (s.respond (match s.selectedSlot with | some slot => slot.totalMs | none => 0))

/-- RD_BANK_LABEL (R167). -/
def execRdBankLabel (s : State) : Host.Outcome State Fault Refusal :=
  .next (s.respond (match s.selectedSlot with | some slot => zext32 slot.label | none => 0))

/-- RD_BANK_INDEX (R166). -/
def execRdBankIndex (s : State) : Host.Outcome State Fault Refusal := .next (s.respond (zext32 s.host.bankIndex))

/-- WR_BANK_INDEX (R166). -/
def execWrBankIndex (wdata : Word) (s : State) : Host.Outcome State Fault Refusal :=
  .next (s.setHost { s.host with bankIndex := low16 wdata })

/-- RD_BANK_DATA (R168). -/
def execRdBankData (s : State) : Host.Outcome State Fault Refusal :=
  .next (s.respond (match s.selectedSlot with
    | some slot =>
      if s.host.bankIndex < slot.count then zext32 (s.bankEntry s.host.bankSel.toNat s.host.bankIndex.toNat) else 0
    | none => 0))

end Sys2Proof.Machine
end

