-- ==== Sys2Proof/Machine/Capture.lean ====
section
/-! DEFINITION. The edge capturer, the capture-control commands and the capture read-out registers
(spec/41_edge_capturer.md R120 to R138). -/

namespace Sys2Proof.Machine

/-- Start-of-signal at time `t` (R122). -/
def State.startOfSignal (s : State) (t : Word) : State :=
  let s := if s.cap.ready then s.setHost { s.host with lost := true } else s
  s.setCap { s.cap with
    count := 0, complete := false, totalMs := 0, ready := false, capturing := true, sessionStart := t }

/-- Append a duration at `s.count` (R123). -/
def State.appendDuration (s : State) (dur : Nat) : State :=
  s.setCap { s.cap with
    buf := s.cap.buf.write s.cap.count.toNat (durationEntry dur), count := s.cap.count + 1 }

/-- Duration classification of an accepted edge while capturing (R123). -/
def State.inCapture (s : State) (t : Word) : State :=
  let dur := elapsed t s.cap.lastEdge
  if s.cfg.minPulseUs ≤ dur ∧ dur ≤ s.cfg.maxPulseUs then
    if s.cap.count.toNat < s.cfg.capacity then s.appendDuration dur else s.finalize t
  else if s.cfg.maxPulseUs < dur then s.setHost { s.host with long := true }
  else s

/-- An edge passes the enable gate and the debounce check (R120). -/
def State.acceptsEdge (s : State) (t : Word) : Bool :=
  s.cap.capEn && !decide (elapsed t s.cap.lastDb < s.cfg.debounceUs)

/-- An accepted edge, by the session state, with the updates of R125 (R120, R121, R125). -/
def State.acceptedEdge (s : State) (t : Word) (lvl : Bool) : State :=
  let s := s.setCap { s.cap with lastDb := t }
  let s := if s.cap.capturing then s.inCapture t else if lvl then s else s.startOfSignal t
  s.setCap { s.cap with lastEdge := t, lastLevel := lvl }

/-- The edge event (R120). -/
def State.edgeEvent (s : State) (t : Word) (lvl : Bool) : State :=
  if s.acceptsEdge t then s.acceptedEdge t lvl else s

/-- CmdStart (R131). -/
def cmdStart (s : State) : State :=
  let s := s.sessionReset
  s.setCap { s.cap with capEn := true }

/-- CmdStop (R132). -/
def cmdStop (s : State) : State := s.setCap { s.cap with capEn := false }

/-- CmdReset (R133). -/
def cmdReset (s : State) : State := s.sessionReset

/-- START (R131). -/
def execStart (s : State) : Host.Outcome State Fault Refusal := .next (cmdStart s)

/-- STOP (R132). -/
def execStop (s : State) : Host.Outcome State Fault Refusal := .next (cmdStop s)

/-- RESET (R133). -/
def execReset (s : State) : Host.Outcome State Fault Refusal := .next (cmdReset s)

/-- RD_CAP_COUNT (R135). -/
def execRdCapCount (s : State) : Host.Outcome State Fault Refusal := .next (s.respond (zext32 s.cap.count))

/-- RD_CAP_TOTAL_MS (R135). -/
def execRdCapTotalMs (s : State) : Host.Outcome State Fault Refusal := .next (s.respond s.cap.totalMs)

/-- RD_CAP_INDEX (R136). -/
def execRdCapIndex (s : State) : Host.Outcome State Fault Refusal := .next (s.respond (zext32 s.host.capIndex))

/-- WR_CAP_INDEX (R136). -/
def execWrCapIndex (wdata : Word) (s : State) : Host.Outcome State Fault Refusal :=
  .next (s.setHost { s.host with capIndex := low16 wdata })

/-- RD_CAP_DATA (R137). -/
def execRdCapData (s : State) : Host.Outcome State Fault Refusal :=
  .next (s.respond (if s.host.capIndex < s.cap.count then zext32 (s.capEntry s.host.capIndex.toNat) else 0))

/-- RD_LAST_EDGE_TS (R138). -/
def execRdLastEdgeTs (s : State) : Host.Outcome State Fault Refusal := .next (s.respond s.cap.lastEdge)

/-- RD_LAST_DEBOUNCE_TS (R138). -/
def execRdLastDebounceTs (s : State) : Host.Outcome State Fault Refusal := .next (s.respond s.cap.lastDb)

/-- RD_SESSION_START_TS (R138). -/
def execRdSessionStartTs (s : State) : Host.Outcome State Fault Refusal := .next (s.respond s.cap.sessionStart)

end Sys2Proof.Machine
end

