-- ==== Sys2Proof/Machine/Transmit.lean ====
section
/-! DEFINITION. The carrier transmitter: start, segment entry, end and engine step, the two transmit commands and the
transmitter registers (spec/44_transmitter.md R180 to R195). -/

namespace Sys2Proof.Machine

/-- TxEnd (R184). -/
def State.txEnd (s : State) : State :=
  (s.setTx { s.tx with irOut := false, busy := false }).setHost { s.host with txDone := true }

/-- The loop of EnterSegment at time `t` (R183), with as many turns as there are segments left; a segment of duration 0
is skipped. -/
def State.enterSegmentLoop (t : Word) : Nat → State → State
  | 0, s => s.txEnd
  | left + 1, s =>
    if s.tx.idx = s.tx.n then s.txEnd
    else
      let d := s.seq s.tx.idx.toNat
      let s := s.setTx { s.tx with segStart := t }
      if isMark s.tx.idx then
        if d = 0 then State.enterSegmentLoop t left (s.setTx { s.tx with idx := s.tx.idx + 1 })
        else s.setTx { s.tx with irOut := true, k := false, next := t + s.tx.half }
      else
        let s := s.setTx { s.tx with irOut := false }
        if d = 0 then State.enterSegmentLoop t left (s.setTx { s.tx with idx := s.tx.idx + 1 })
        else s.setTx { s.tx with next := t + zext32 d }

/-- EnterSegment at time `t` (R183): the index reaches `s.tx_n` after `s.tx_n - s.tx_idx` skips, modulo 2^16
(log entry 9). -/
def State.enterSegment (s : State) (t : Word) : State :=
  State.enterSegmentLoop t (s.tx.n - s.tx.idx).toNat s

/-- The three refusals of TxStart (R180, R241). -/
def State.txStartRefused (s : State) (useBuf : Bool) (slot : SlotNo) : Bool :=
  s.tx.busy || (!useBuf && decide (s.bank.size ≤ slot)) || decide (s.tx.carrier = 0#32 ∨ 500000#32 < s.tx.carrier)

/-- TxStart (R180). -/
def txStart (useBuf : Bool) (slot : SlotNo) (s : State) : State :=
  if s.txStartRefused useBuf slot then s.raiseCmdErr
  else
    let s := s.setTx { s.tx with
      half := halfPeriod s.tx.carrier
      useBuf := useBuf
      slot := slot
      n := if useBuf then s.tx.count else (s.slotAt slot.toNat).count
      idx := 0
      busy := true }
    s.enterSegment s.tb.now

/-- TxStep, the engine's part of the microsecond step, at time `t` (R185). -/
def State.txStep (s : State) (t : Word) : State :=
  if s.tx.busy = false ∨ t ≠ s.tx.next then s
  else if isMark s.tx.idx ∧ elapsed t s.tx.segStart < (s.seq s.tx.idx.toNat).toNat then
    s.setTx { s.tx with k := !s.tx.k, irOut := s.tx.k, next := t + s.tx.half }
  else
    (s.setTx { s.tx with idx := s.tx.idx + 1 }).enterSegment t

/-- TX_BANK (R181). -/
def execTxBank (slot : SlotNo) (s : State) : Host.Outcome State Fault Refusal := .next (txStart false slot s)

/-- TX_BUF (R182). -/
def execTxBuf (s : State) : Host.Outcome State Fault Refusal := .next (txStart true 0 s)

/-- RD_TX_CARRIER_HZ (R190). -/
def execRdTxCarrierHz (s : State) : Host.Outcome State Fault Refusal := .next (s.respond s.tx.carrier)

/-- WR_TX_CARRIER_HZ (R190). -/
def execWrTxCarrierHz (wdata : Word) (s : State) : Host.Outcome State Fault Refusal :=
  .next (s.setTx { s.tx with carrier := wdata })

/-- RD_TX_COUNT (R191). -/
def execRdTxCount (s : State) : Host.Outcome State Fault Refusal := .next (s.respond (zext32 s.tx.count))

/-- WR_TX_COUNT (R191). -/
def execWrTxCount (wdata : Word) (s : State) : Host.Outcome State Fault Refusal :=
  .next (if s.tx.busy ∨ s.cfg.capacity < wdata.toNat then s.raiseAccErr
    else s.setTx { s.tx with count := low16 wdata })

/-- RD_TX_INDEX (R192). -/
def execRdTxIndex (s : State) : Host.Outcome State Fault Refusal := .next (s.respond (zext32 s.tx.index))

/-- WR_TX_INDEX (R192). -/
def execWrTxIndex (wdata : Word) (s : State) : Host.Outcome State Fault Refusal :=
  .next (s.setTx { s.tx with index := low16 wdata })

/-- RD_TX_DATA (R193). -/
def execRdTxData (s : State) : Host.Outcome State Fault Refusal :=
  .next (s.respond (if s.tx.index.toNat < s.cfg.capacity then zext32 (s.txEntry s.tx.index.toNat) else 0))

/-- WR_TX_DATA (R193). -/
def execWrTxData (wdata : Word) (s : State) : Host.Outcome State Fault Refusal :=
  .next (if s.tx.busy ∨ s.cfg.capacity ≤ s.tx.index.toNat ∨ high16 wdata ≠ 0 then s.raiseAccErr
    else s.setTx { s.tx with
      buf := s.tx.buf.write s.tx.index.toNat (low16 wdata), index := s.tx.index + 1 })

/-- RD_TX_SEG (R194). -/
def execRdTxSeg (s : State) : Host.Outcome State Fault Refusal := .next (s.respond (zext32 s.tx.idx))

/-- RD_TX_HALF_US (R194). -/
def execRdTxHalfUs (s : State) : Host.Outcome State Fault Refusal := .next (s.respond s.tx.half)

end Sys2Proof.Machine
end

