-- ==== Sys2Proof/Machine/HostInterface.lean ====
section
/-! DEFINITION. STATUS, IRQ_EN, CMD, TIME and the PARAM registers, with the command dispatch and NOP
(spec/45_host_interface.md R214 to R221). -/

namespace Sys2Proof.Machine

/-- RD_STATUS (R214). -/
def execRdStatus (s : State) : Host.Outcome State Fault Refusal := .next (s.respond s.statusWord)

/-- WR_STATUS (R215). -/
def execWrStatus (wdata : Word) (s : State) : Host.Outcome State Fault Refusal := .next (s.clearSticky wdata)

/-- RD_IRQ_EN (R216). -/
def execRdIrqEn (s : State) : Host.Outcome State Fault Refusal := .next (s.respond s.host.irqEn)

/-- WR_IRQ_EN (R216). -/
def execWrIrqEn (wdata : Word) (s : State) : Host.Outcome State Fault Refusal :=
  .next (s.setHost { s.host with irqEn := wdata &&& irqEnMask })

/-- The command dispatch (R217): an illegal word raises CmdError, a legal one performs its command. -/
def runCommand (w : Word) (s : State) : State :=
  if commandRsv w ≠ 0#16 ∨ 6 < (commandOp w).toNat ∨ (commandArg w ≠ 0#8 ∧ commandOp w ≠ 5#8) then s.raiseCmdErr
  else
    match (commandOp w).toNat with
    | 0 => s
    | 1 => cmdStart s
    | 2 => cmdStop s
    | 3 => cmdReset s
    | 4 => cmdCollect s
    | 5 => txStart false (commandArg w) s
    | _ => txStart true 0 s

/-- WR_CMD (R217). -/
def execWrCmd (wdata : Word) (s : State) : Host.Outcome State Fault Refusal := .next (runCommand wdata s)

/-- NOP (R218). -/
def execNop (s : State) : Host.Outcome State Fault Refusal := .next s

/-- RD_TIME (R220). -/
def execRdTime (s : State) : Host.Outcome State Fault Refusal := .next (s.respond s.tb.now)

/-- RD_PARAM_CAPACITY (R221). -/
def execRdParamCapacity (s : State) : Host.Outcome State Fault Refusal :=
  .next (s.respond (paramWord s.cfg.capacity))

/-- RD_PARAM_BANK_CAP (R221). -/
def execRdParamBankCap (s : State) : Host.Outcome State Fault Refusal :=
  .next (s.respond (paramWord s.cfg.bankCap))

/-- RD_PARAM_MIN_VALID_COUNT (R221). -/
def execRdParamMinValidCount (s : State) : Host.Outcome State Fault Refusal :=
  .next (s.respond (paramWord s.cfg.minValidCount))

/-- RD_PARAM_DEBOUNCE_US (R221). -/
def execRdParamDebounceUs (s : State) : Host.Outcome State Fault Refusal :=
  .next (s.respond (paramWord s.cfg.debounceUs))

/-- RD_PARAM_MIN_PULSE_US (R221). -/
def execRdParamMinPulseUs (s : State) : Host.Outcome State Fault Refusal :=
  .next (s.respond (paramWord s.cfg.minPulseUs))

/-- RD_PARAM_MAX_PULSE_US (R221). -/
def execRdParamMaxPulseUs (s : State) : Host.Outcome State Fault Refusal :=
  .next (s.respond (paramWord s.cfg.maxPulseUs))

/-- RD_PARAM_SILENCE_GAP_US (R221). -/
def execRdParamSilenceGapUs (s : State) : Host.Outcome State Fault Refusal :=
  .next (s.respond (paramWord s.cfg.silenceGapUs))

/-- RD_PARAM_TICK_PERIOD_US (R221). -/
def execRdParamTickPeriodUs (s : State) : Host.Outcome State Fault Refusal :=
  .next (s.respond (paramWord s.cfg.tickPeriodUs))

end Sys2Proof.Machine
end

