-- ==== Sys2Proof/Machine/Dispatch.lean ====
section
/-! DEFINITION. What each instruction does: one arm per constructor of `Instr`. -/

namespace Sys2Proof.Machine

/-- The meaning of an instruction that the block accepts while `rst` is deasserted. -/
def exec (i : Instr) (s : State) : Host.Outcome State Fault Refusal :=
  match i with
  | .rdStatus => Sys2Proof.Machine.execRdStatus s
  | .wrStatus wdata => Sys2Proof.Machine.execWrStatus wdata s
  | .rdIrqEn => Sys2Proof.Machine.execRdIrqEn s
  | .wrIrqEn wdata => Sys2Proof.Machine.execWrIrqEn wdata s
  | .wrCmd wdata => Sys2Proof.Machine.execWrCmd wdata s
  | .rdTime => Sys2Proof.Machine.execRdTime s
  | .rdCapCount => Sys2Proof.Machine.execRdCapCount s
  | .rdCapTotalMs => Sys2Proof.Machine.execRdCapTotalMs s
  | .rdCapIndex => Sys2Proof.Machine.execRdCapIndex s
  | .wrCapIndex wdata => Sys2Proof.Machine.execWrCapIndex wdata s
  | .rdCapData => Sys2Proof.Machine.execRdCapData s
  | .rdLastEdgeTs => Sys2Proof.Machine.execRdLastEdgeTs s
  | .rdLastDebounceTs => Sys2Proof.Machine.execRdLastDebounceTs s
  | .rdSessionStartTs => Sys2Proof.Machine.execRdSessionStartTs s
  | .rdBankSize => Sys2Proof.Machine.execRdBankSize s
  | .rdBankSel => Sys2Proof.Machine.execRdBankSel s
  | .wrBankSel wdata => Sys2Proof.Machine.execWrBankSel wdata s
  | .rdBankCount => Sys2Proof.Machine.execRdBankCount s
  | .rdBankTotalMs => Sys2Proof.Machine.execRdBankTotalMs s
  | .rdBankLabel => Sys2Proof.Machine.execRdBankLabel s
  | .rdBankIndex => Sys2Proof.Machine.execRdBankIndex s
  | .wrBankIndex wdata => Sys2Proof.Machine.execWrBankIndex wdata s
  | .rdBankData => Sys2Proof.Machine.execRdBankData s
  | .rdTxCarrierHz => Sys2Proof.Machine.execRdTxCarrierHz s
  | .wrTxCarrierHz wdata => Sys2Proof.Machine.execWrTxCarrierHz wdata s
  | .rdTxCount => Sys2Proof.Machine.execRdTxCount s
  | .wrTxCount wdata => Sys2Proof.Machine.execWrTxCount wdata s
  | .rdTxIndex => Sys2Proof.Machine.execRdTxIndex s
  | .wrTxIndex wdata => Sys2Proof.Machine.execWrTxIndex wdata s
  | .rdTxData => Sys2Proof.Machine.execRdTxData s
  | .wrTxData wdata => Sys2Proof.Machine.execWrTxData wdata s
  | .rdTxSeg => Sys2Proof.Machine.execRdTxSeg s
  | .rdTxHalfUs => Sys2Proof.Machine.execRdTxHalfUs s
  | .rdParamCapacity => Sys2Proof.Machine.execRdParamCapacity s
  | .rdParamBankCap => Sys2Proof.Machine.execRdParamBankCap s
  | .rdParamMinValidCount => Sys2Proof.Machine.execRdParamMinValidCount s
  | .rdParamDebounceUs => Sys2Proof.Machine.execRdParamDebounceUs s
  | .rdParamMinPulseUs => Sys2Proof.Machine.execRdParamMinPulseUs s
  | .rdParamMaxPulseUs => Sys2Proof.Machine.execRdParamMaxPulseUs s
  | .rdParamSilenceGapUs => Sys2Proof.Machine.execRdParamSilenceGapUs s
  | .rdParamTickPeriodUs => Sys2Proof.Machine.execRdParamTickPeriodUs s
  | .nop => Sys2Proof.Machine.execNop s
  | .start => Sys2Proof.Machine.execStart s
  | .stop => Sys2Proof.Machine.execStop s
  | .reset => Sys2Proof.Machine.execReset s
  | .collect => Sys2Proof.Machine.execCollect s
  | .txBank slot => Sys2Proof.Machine.execTxBank slot s
  | .txBuf => Sys2Proof.Machine.execTxBuf s

end Sys2Proof.Machine
end

