-- ==== Sys2Proof/Machine/Detector.lean ====
section
/-! DEFINITION. The frame-completion detector (spec/42_frame_detector.md R150, R151). -/

namespace Sys2Proof.Machine

/-- The detector tick at time `t` (R150): finalise after a silence above SILENCE_GAP_US with more than MIN_VALID_COUNT
entries, and change nothing otherwise (R151). -/
def State.detectorTick (s : State) (t : Word) : State :=
  if s.cap.capturing ∧ s.cfg.silenceGapUs < elapsed t s.cap.lastEdge ∧ s.cfg.minValidCount < s.cap.count.toNat then
    s.finalize t
  else s

end Sys2Proof.Machine
end

