-- ==== Sys2Proof/Machine/Microsecond.lean ====
section
/-! DEFINITION. The time base, input sampling and the microsecond step (spec/40_timebase.md R110 to R113), and hardware
reset (spec/70_reset_and_hazards.md R260, R261). -/

namespace Sys2Proof.Machine

/-- The step's counter update fires a tick (R111). -/
def State.tickFires (s : State) : Bool := decide ((s.tb.tickDiv + 1).toNat = s.cfg.tickPeriodUs)

/-- CounterUpdate (R111). -/
def State.counterUpdate (s : State) : State :=
  s.setTb { s.tb with
    now := s.tb.now + 1
    tickDiv := if s.tickFires then 0 else s.tb.tickDiv + 1 }

/-- The input sample and the edge event it may find (R112, R113). -/
def State.sampleInput (s : State) (lvl : Bool) : State :=
  if lvl = s.tb.inPrev then s
  else (s.setTb { s.tb with inPrev := lvl }).edgeEvent s.tb.now lvl

/-- MicrosecondStep with `ir_in` sampled at `lvl` (R110): counter, edge, detector tick, transmitter, in this order. -/
def State.microsecondStep (s : State) (lvl : Bool) : State :=
  let fire := s.tickFires
  let s := s.counterUpdate
  let s := s.sampleInput lvl
  let s := if fire then s.detectorTick s.tb.now else s
  s.txStep s.tb.now

/-- HardwareReset (R260): every field at its reset value; the memories' contents are unspecified. -/
def State.hardwareReset (s : State) : State :=
  { s with
    tb := TimeBase.reset s.cfg
    cap := Session.reset
    bank := SignalBank.reset
    tx := Transmitter.reset
    host := HostRegs.reset }

/-- `rst` is driven to a level (R260, R261): while it is asserted and at its end every field has its reset value
(log entry 10). -/
def State.driveRst (s : State) (level : Bool) : State :=
  if level then
    s.hardwareReset.setEnv { s.env with rst := true, epoch := s.env.epoch + 1 }
  else if s.env.rst then
    s.hardwareReset.setEnv { s.env with rst := false }
  else s

/-- A microsecond passes with `ir_in` at `lvl`: no microsecond step runs while `rst` is asserted (R261). -/
def State.passMicrosecond (s : State) (lvl : Bool) : State :=
  if s.env.rst then s else s.microsecondStep lvl

end Sys2Proof.Machine
end

