-- ==== Sys2Proof/Machine/Bus.lean ====
section
/-! DEFINITION. The host's access to the window (spec/45_host_interface.md R210, spec/70_reset_and_hazards.md R261), the
next thing the environment does, and where a test places the item that the block takes next (log entries 5 and 6). -/

namespace Sys2Proof.Machine

/-- BusAccess (R210), at an offset of the window: decode it and run it, or refuse it (R242). While `rst` is asserted a read
returns 0 and nothing else happens (R261). -/
def accessAt (a : BusAccess) (offset : BitVec 8) (s : State) : Host.Outcome State Fault Refusal :=
  if s.env.rst then .next (if a.write then s else s.respond 0)
  else
    match decodeAccess a.write offset a.size a.wdata with
    | .ok i => exec i s
    | .error _ => .next (s.refuseAccess a.write)

/-- A host access by its bus address (R210): outside the window it is no access of the block (R66, log entry 8). -/
def busAccess (a : BusAccess) (s : State) : Host.Outcome State Fault Refusal :=
  match windowOffset s.cfg.base a.addr with
  | some offset => accessAt a offset s
  | none => .fault .outsideWindow

/-- One thing the environment does (R110, R112, R210, R261). -/
def runInput (x : Input) (s : State) : Host.Outcome State Fault Refusal :=
  match x with
  | .access a => busAccess a s
  | .microsecond lvl => .next (s.passMicrosecond lvl)
  | .rstLevel level => .next (s.driveRst level)

/-- With nothing listed, a microsecond passes with a free level of `ir_in` (R112, U14; log entry 5). -/
def freeMicrosecond (s : State) : State :=
  (s.setEnv { s.env with freeCtr := s.env.freeCtr + 1 }).passMicrosecond (Config.irInFree s.env.freeCtr)

/-- The environment takes the first of its listed inputs off the list. -/
def State.setInputs (s : State) (inputs : List Input) : State := s.setEnv { s.env with inputs := inputs }

/-- One event of the block's one total order (R68). -/
def nextEvent (s : State) : Host.Outcome State Fault Refusal :=
  match s.env.inputs with
  | [] => .next (freeMicrosecond s)
  | x :: rest => runInput x (s.setInputs rest)

/-- The access of an item placed as the next thing the host does, with `rst` deasserted. -/
def State.placeItem (s : State) (item : Item) : State :=
  s.setEnv { s.env with
    rst := false
    inputs := .access (accessOfItem s.cfg.base item) :: s.env.inputs }

end Sys2Proof.Machine
end

