-- ==== Sys2Proof/Machine/Step.lean ====
section
/-! DEFINITION. One step of the machine, and where a test places the item it runs next. -/

namespace Sys2Proof.Machine

/-- One event: a host access, a microsecond, or a level of `rst`. -/
def step (s : State) : Host.Outcome State Fault Refusal := nextEvent s

/-- `s` with the item whose bits are `w`, in the table's numbering, as the next access the host makes (log entry 6); where
the bits are no item of either format, `s` itself. -/
def State.withFetchWord (s : State) (nbits w : Nat) : State :=
  match itemOfWord nbits w with
  | some item => s.placeItem item
  | none => s

end Sys2Proof.Machine
end

