-- ==== Sys2Proof/Safety.lean ====
section
/-! DEFINITION. What every state the block can reach is like, in the words of the spec: the states of the session
(spec/10_state.md R24, R25, spec/41_edge_capturer.md R127), the masks of R30, the bank (R26, R160, R161), the transmitter
between two of its events (R72, R183 to R186), and the states held during reset (R261). The claims use `State.Inv`. -/

namespace Sys2Proof.Machine

/-- A stored duration passed the debounce and the range check (R123, R127). -/
def DurationInRange (cfg : Config.Params) (v : Entry) : Prop :=
  cfg.debounceUs ≤ v.toNat ∧ cfg.minPulseUs ≤ v.toNat ∧ v.toNat ≤ cfg.maxPulseUs

/-- A duration memory in canonical form, inside the buffer, whose first `n` entries have been written with durations in
range (R30, R61, R127). -/
def DurationsHeld (cfg : Config.Params) (m : Memory Entry) (n : Nat) : Prop :=
  m.wf ∧ (∀ x ∈ m, x.1 < cfg.capacity) ∧ ∀ i < n, ∃ v, m.lookup i = some v ∧ DurationInRange cfg v

/-- The tick divider stays below the period (R22), and IRQ_EN holds only writable bits (R32). -/
def State.TimeAndIrqInv (s : State) : Prop :=
  s.tb.tickDiv.toNat < s.cfg.tickPeriodUs ∧ s.host.irqEn &&& irqEnMask = s.host.irqEn

/-- The session is Idle, Capturing or Ready (R24), COMPLETE follows READY (R25), the two timestamps agree (R127), a Ready
sequence is long enough (R162), and CapBuf holds its `s.count` entries (R23, R30). -/
def State.SessionInv (s : State) : Prop :=
  ¬(s.cap.capturing = true ∧ s.cap.ready = true) ∧ s.cap.complete = s.cap.ready ∧
  s.cap.lastEdge = s.cap.lastDb ∧ (s.cap.ready = true → s.cfg.minValidCount < s.cap.count.toNat) ∧
  s.cap.count.toNat ≤ s.cfg.capacity ∧ DurationsHeld s.cfg s.cap.buf s.cap.count.toNat

/-- A filled slot of the bank (R161, R162). -/
def SlotHeld (cfg : Config.Params) (k : Nat) (slot : Slot) : Prop :=
  slot.label = BitVec.ofNat 8 k ∧ cfg.minValidCount < slot.count.toNat ∧ slot.count.toNat ≤ cfg.capacity ∧
  DurationsHeld cfg slot.dur slot.count.toNat

/-- The slots filled are exactly 0 to `s.bank_size`-1, at most BANK_CAP of them (R26, R160). -/
def State.BankInv (s : State) : Prop :=
  s.bank.size.toNat ≤ s.cfg.bankCap ∧ s.bank.slots.wf ∧ (∀ x ∈ s.bank.slots, x.1 < s.bank.size.toNat) ∧
  ∀ k < s.bank.size.toNat, ∃ slot, s.bank.slots.lookup k = some slot ∧ SlotHeld s.cfg k slot

/-- The transmitter while it plays (R72, R180, R183, R185): the segment exists and is not empty, the source is what it was
at the start, the output is the carrier's half-period of a mark and low in a space, and the next event lies ahead within
one half-period or one space. -/
def State.PlayingInv (s : State) : Prop :=
  s.tx.idx.toNat < s.tx.n.toNat ∧ s.seq s.tx.idx.toNat ≠ 0 ∧
  1 ≤ s.tx.half.toNat ∧ s.tx.half.toNat ≤ 500000 ∧
  (s.tx.useBuf = true → s.tx.n = s.tx.count) ∧
  (s.tx.useBuf = false → s.tx.slot < s.bank.size ∧ s.tx.n = (s.slotAt s.tx.slot.toNat).count) ∧
  s.tx.irOut = (isMark s.tx.idx && !s.tx.k) ∧
  1 ≤ elapsed s.tx.next s.tb.now ∧
  elapsed s.tx.next s.tb.now ≤
    (if isMark s.tx.idx then s.tx.half.toNat else (s.seq s.tx.idx.toNat).toNat)

/-- The transmitter (R27, R184): TX_COUNT within the buffer, TxBuf in canonical form and inside it; while idle the output
is low and the segment index stands at the end. -/
def State.TransmitterInv (s : State) : Prop :=
  s.tx.count.toNat ≤ s.cfg.capacity ∧ s.tx.buf.wf ∧ (∀ x ∈ s.tx.buf, x.1 < s.cfg.capacity) ∧
  s.tx.n.toNat ≤ s.cfg.capacity ∧
  (s.tx.busy = true → s.PlayingInv) ∧ (s.tx.busy = false → s.tx.irOut = false ∧ s.tx.idx = s.tx.n)

/-- Every field the spec gives a reset value has it (R260). -/
def State.AtReset (s : State) : Prop :=
  s.tb = TimeBase.reset s.cfg ∧ s.cap = Session.reset ∧ s.bank = SignalBank.reset ∧
  s.tx = Transmitter.reset ∧ s.host = HostRegs.reset

/-- What holds in every state the block reaches in a legal configuration (R5); while `rst` is asserted the block is held
at its reset values (R261). -/
def State.Inv (s : State) : Prop :=
  s.cfg.Legal ∧ s.TimeAndIrqInv ∧ s.SessionInv ∧ s.BankInv ∧ s.TransmitterInv ∧
  (s.env.rst = true → s.AtReset)

/-- The addresses of the window (R60). -/
def State.InWindow (s : State) (a : BusAccess) : Prop := s.cfg.base ≤ a.addr ∧ a.addr < s.cfg.base + 0x100

end Sys2Proof.Machine
end

