-- ==== Sys2Proof/Certificates/Slice0/Obligations.lean ====
section
/-! DEFINITION. The statements for the provers, with the words they are stated in. Each docstring names the rule of spec/ it
formalises, or says that the statement rests on a choice of the model's and names its log entry. The list of events
`env.inputs` and the bus data `env.rdata`, in which the statements speak, are the model's own (log entries 5 and 3). -/

open Sys2Proof Sys2Proof.Machine

namespace Sys2Proof.Claims

/-! ### Words the statements share -/

/-- `s` after a read that returned `v`: the bus data, and nothing else (R65, R210). -/
def afterRead (s : State) (v : Word) : State := { s with env := { s.env with rdata := v } }

/-- `s` with CMD_ERR set, and nothing else (R240). -/
def withCmdErr (s : State) : State := { s with host := { s.host with cmdErr := true } }

/-- `s` with ACC_ERR set, and nothing else (R240). -/
def withAccErr (s : State) : State := { s with host := { s.host with accErr := true } }

/-- `s` with the environment's list as given. -/
def withInputs (s : State) (inputs : List Input) : State := { s with env := { s.env with inputs := inputs } }

/-- A run of microsecond steps, with the level of `ir_in` sampled at each. -/
def runMicroseconds (levels : List Bool) (s : State) : State := levels.foldl State.microsecondStep s

/-- An edge at time `t` is accepted (R120). -/
abbrev accepted (s : State) (t : Word) : Prop := s.cap.capEn = true ∧ s.cfg.debounceUs ≤ (t - s.cap.lastDb).toNat

/-- The step to the next microsecond samples an accepted edge of level `lvl` (R113, R120). -/
abbrev acceptedSample (s : State) (lvl : Bool) : Prop := lvl ≠ s.tb.inPrev ∧ accepted s (s.tb.now + 1)

/-- No sample of `levels`, taken in turn from `s` on, is an accepted edge (R113, R120). -/
abbrev noEdgeAccepted (s : State) (levels : List Bool) : Prop :=
  ∀ (j : Nat) (h : j < levels.length), ¬ acceptedSample (runMicroseconds (levels.take j) s) levels[j]

/-- The access codes of R84 that are not refused, each with the instruction it names. -/
def accessCodes (wdata : Word) : List (BitVec 9 × Instr) := [
  (0x000, .rdStatus), (0x100, .wrStatus wdata), (0x004, .rdIrqEn), (0x104, .wrIrqEn wdata), (0x108, .wrCmd wdata),
  (0x00C, .rdTime), (0x010, .rdCapCount), (0x014, .rdCapTotalMs), (0x018, .rdCapIndex), (0x118, .wrCapIndex wdata),
  (0x01C, .rdCapData), (0x020, .rdLastEdgeTs), (0x024, .rdLastDebounceTs), (0x028, .rdSessionStartTs),
  (0x02C, .rdBankSize), (0x030, .rdBankSel), (0x130, .wrBankSel wdata), (0x034, .rdBankCount),
  (0x038, .rdBankTotalMs), (0x03C, .rdBankLabel), (0x040, .rdBankIndex), (0x140, .wrBankIndex wdata),
  (0x044, .rdBankData), (0x048, .rdTxCarrierHz), (0x148, .wrTxCarrierHz wdata), (0x04C, .rdTxCount),
  (0x14C, .wrTxCount wdata), (0x050, .rdTxIndex), (0x150, .wrTxIndex wdata), (0x054, .rdTxData),
  (0x154, .wrTxData wdata), (0x058, .rdTxSeg), (0x05C, .rdTxHalfUs), (0x060, .rdParamCapacity),
  (0x064, .rdParamBankCap), (0x068, .rdParamMinValidCount), (0x06C, .rdParamDebounceUs), (0x070, .rdParamMinPulseUs),
  (0x074, .rdParamMaxPulseUs), (0x078, .rdParamSilenceGapUs), (0x07C, .rdParamTickPeriodUs)]

/-- The command words that R86 calls illegal, by the word as a number. -/
abbrev illegalCommand (w : Word) : Prop :=
  7 ≤ w.toNat % 256 ∨ w.toNat / 65536 ≠ 0 ∨ (w.toNat / 256 % 256 ≠ 0 ∧ w.toNat % 256 ≠ 5)

/-- The conditions under which a transmit command is refused (R180, R241). -/
abbrev transmitRefused (s : State) (useBuf : Bool) (slot : Nat) : Prop :=
  s.tx.busy = true ∨ (useBuf = false ∧ s.bank.size.toNat ≤ slot) ∨
  s.tx.carrier.toNat = 0 ∨ 500000 < s.tx.carrier.toNat

/-- The offsets whose registers R84 lets a host write. -/
abbrev writable (o : Nat) : Prop := o ∈ [0x00, 0x04, 0x08, 0x18, 0x30, 0x40, 0x48, 0x4C, 0x50, 0x54]

/-- The accesses, at offset `o` of the window, that are refused (R87, R191, R193, R242). -/
abbrev illegalAccess (s : State) (a : BusAccess) (o : Nat) : Prop :=
  a.size ≠ 4 ∨ o % 4 ≠ 0 ∨ 0x80 ≤ o ∨
  (a.write = false ∧ o = 0x08) ∨ (a.write = true ∧ ¬ writable o) ∨
  (a.write = true ∧ o = 0x4C ∧ (s.tx.busy = true ∨ s.cfg.capacity < a.wdata.toNat)) ∨
  (a.write = true ∧ o = 0x54 ∧
    (s.tx.busy = true ∨ s.cfg.capacity ≤ s.tx.index.toNat ∨ 65536 ≤ a.wdata.toNat))

/-- The sticky flag at bit `b` of STATUS (R28, R31). -/
def sticky (h : HostRegs) (b : Nat) : Bool :=
  match b with
  | 16 => h.long
  | 17 => h.lost
  | 18 => h.txDone
  | 19 => h.cmdErr
  | 20 => h.accErr
  | _ => false

/-- Bit `b` of the STATUS word (R31). -/
def statusBit (s : State) (b : Nat) : Bool :=
  match b with
  | 0 => s.cap.capturing
  | 1 => s.cap.ready
  | 2 => s.cap.complete
  | 3 => s.cap.capEn
  | 4 => s.tx.busy
  | 5 => decide (s.bank.size.toNat = s.cfg.bankCap)
  | 6 => s.cap.lastLevel
  | 7 => s.tb.inPrev
  | 8 => decide (s.bank.collectResult = .stored ∨ s.bank.collectResult = .full)
  | 9 => decide (s.bank.collectResult = .discarded ∨ s.bank.collectResult = .full)
  | 16 => s.host.long
  | 17 => s.host.lost
  | 18 => s.host.txDone
  | 19 => s.host.cmdErr
  | 20 => s.host.accErr
  | _ => false

/-- Idle (R24). -/
abbrev idle (s : State) : Prop := s.cap.capturing = false ∧ s.cap.ready = false
/-- Capturing (R24). -/
abbrev capturing (s : State) : Prop := s.cap.capturing = true ∧ s.cap.ready = false
/-- Ready (R24). -/
abbrev ready (s : State) : Prop := s.cap.capturing = false ∧ s.cap.ready = true

/-- The session group after a session reset (R130). -/
def sessionCleared (c : Session) : Session :=
  { c with capturing := false, ready := false, complete := false, count := 0, totalMs := 0 }

/-- The engine's fields that a transmission in progress is played from and by (R27), less the two pointers a host may
move meanwhile (R190, R192). -/
def engineSame (s t : State) : Prop :=
  t.tx = { s.tx with carrier := t.tx.carrier, index := t.tx.index }

/-- The length in µs of segment `i` of duration `d` with half-period `h`: `h * ceil(d / h)` for a mark, `d` for a space
(R186). -/
def segmentLength (h i d : Nat) : Nat := if i % 2 = 0 then h * ((d + h - 1) / h) else d

/-- The length in µs of the segments `d`, the first of them of index `i` (R186). -/
def totalLength (h i : Nat) : List Nat → Nat
  | [] => 0
  | d :: ds => segmentLength h i d + totalLength h (i + 1) ds

/-- The output level `j` µs after the segments `d` began, the first of them of index `i` (R186). -/
def waveform (h i : Nat) : List Nat → Nat → Bool
  | [], _ => false
  | d :: ds, j =>
    if j < segmentLength h i d then decide (i % 2 = 0 ∧ j / h % 2 = 0)
    else waveform h (i + 1) ds (j - segmentLength h i d)

/-- The engine has just entered the segment it plays, which is not empty (R183): a mark with the output high for its first
half-period, a space with the output low for its duration. -/
abbrev justEntered (s : State) : Prop :=
  s.tx.busy = true ∧ s.tx.idx.toNat < s.tx.n.toNat ∧ s.seq s.tx.idx.toNat ≠ 0 ∧ s.tx.segStart = s.tb.now ∧
  if s.tx.idx.toNat % 2 = 0 then s.tx.irOut = true ∧ s.tx.k = false ∧ s.tx.next = s.tb.now + s.tx.half
  else s.tx.irOut = false ∧ s.tx.next = s.tb.now + (s.seq s.tx.idx.toNat).setWidth 32

/-- The sequence a start would play (R180, R183). -/
def sequenceOf (s : State) (useBuf : Bool) (slot : SlotNo) : List Nat :=
  if useBuf then (List.range s.tx.count.toNat).map fun i => (s.txEntry i).toNat
  else (List.range (s.slotAt slot.toNat).count.toNat).map fun i => (s.bankEntry slot.toNat i).toNat

end Sys2Proof.Claims

open Sys2Proof.Claims

/-! ### Encoding -/

/-- R81, R82, R84, R85: writing an instruction out as bits, in the numbering of spec/opcode_table.json, and decoding the
bits gives it back, with every operand at every value. A bus item's write data stands in bits 47:16, above its access code,
by the model's choice (DESIGN CHOICE, log entry 6). -/
def Obligations.DecodeEncodeRoundTrip : Prop :=
  ∀ i : Instr, decodeTableWord (encodeWord i).1 (encodeWord i).2 = some i

/-- R84: an access code decodes to an instruction exactly where the rule's map names one, and to that one; the other codes,
misaligned and reserved offsets among them, decode to none. -/
def Obligations.AccessCodeMap : Prop :=
  ∀ (code : BitVec 9) (wdata : Word) (i : Instr), decodeBus code wdata = .ok i ↔ (code, i) ∈ accessCodes wdata

/-- R84, R85: a few words of each family, written out bit by bit, decode to the instruction they stand for. The layout of
the bus words around the access code is the model's choice and no rule's: `wdata` in bits 47:16 and zeros in bits 15:9
(DESIGN CHOICE, log entry 6). -/
def Obligations.FamilyWordsDecode : Prop :=
  decodeTableWord 16 0b0000_0000_0000_0000 = some .rdStatus ∧
  decodeTableWord 48 0b0000_0000_0001_0000_0000_0000_0000_0000_0000_0001_0000_0000 = some (.wrStatus 0x00100000) ∧
  decodeTableWord 16 0b0000_0000_0001_1100 = some .rdCapData ∧
  decodeTableWord 16 0b0000_0000_0100_0100 = some .rdBankData ∧
  decodeTableWord 48 0b0000_0000_0000_0000_0000_0000_0001_1010_0000_0001_0101_0100 = some (.wrTxData 26) ∧
  decodeTableWord 16 0b0000_0000_0111_1100 = some .rdParamTickPeriodUs ∧
  decodeTableWord 32 0b0000_0000_0000_0000_0000_0000_0000_0100 = some .collect ∧
  decodeTableWord 32 0b0000_0000_0000_0000_0000_0010_0000_0101 = some (.txBank 2)

/-- R85: the words of the rule's map, and no others, are legal; each, written to CMD, decodes to its command and does what
that command does. -/
def Obligations.CommandWordsRunTheirCommands : Prop :=
  (∀ w : Word, (∃ i, decodeCmd w = .ok i) ↔ ¬ illegalCommand w) ∧
  ∀ s : State,
    (decodeCmd 0x00000000 = .ok .nop ∧ exec (.wrCmd 0x00000000) s = exec .nop s) ∧
    (decodeCmd 0x00000001 = .ok .start ∧ exec (.wrCmd 0x00000001) s = exec .start s) ∧
    (decodeCmd 0x00000002 = .ok .stop ∧ exec (.wrCmd 0x00000002) s = exec .stop s) ∧
    (decodeCmd 0x00000003 = .ok .reset ∧ exec (.wrCmd 0x00000003) s = exec .reset s) ∧
    (decodeCmd 0x00000004 = .ok .collect ∧ exec (.wrCmd 0x00000004) s = exec .collect s) ∧
    (∀ k : SlotNo, decodeCmd (0x00000005 ||| (k.setWidth 32 <<< 8)) = .ok (.txBank k) ∧
      exec (.wrCmd (0x00000005 ||| (k.setWidth 32 <<< 8))) s = exec (.txBank k) s) ∧
    (decodeCmd 0x00000006 = .ok .txBuf ∧ exec (.wrCmd 0x00000006) s = exec .txBuf s) ∧
    exec (.wrCmd 0x00000000) s = .next s ∧
    exec (.wrCmd 0x00000001) s = .next { s with cap := { sessionCleared s.cap with capEn := true } } ∧
    exec (.wrCmd 0x00000002) s = .next { s with cap := { s.cap with capEn := false } } ∧
    exec (.wrCmd 0x00000003) s = .next { s with cap := sessionCleared s.cap }

/-- R86: an illegal command word is not decoded; its write raises CmdError and has no other effect. -/
def Obligations.IllegalCommandWordsRaiseCmdError : Prop :=
  ∀ (w : Word) (s : State), illegalCommand w →
    (∀ i, decodeCmd w ≠ .ok i) ∧ exec (.wrCmd w) s = .next (withCmdErr s)

/-! ### The step and the order of events -/

/-- A step takes the access the host makes next off the list and runs the instruction it decodes to (R210). The list is
the model's own (log entries 5 and 6). -/
def Obligations.StepRunsDecodedAccess : Prop :=
  ∀ (s : State) (a : BusAccess) (rest : List Input) (offset : BitVec 8) (i : Instr),
    s.env.inputs = .access a :: rest → s.env.rst = false → a.addr = s.cfg.base + offset.toNat →
    decodeAccess a.write offset a.size a.wdata = .ok i →
    step s = exec i (withInputs s rest)

/-- An instruction's own bits, placed as the next access, run that instruction and nothing else (R80, R217; the placing is
the model's own, log entry 6). -/
def Obligations.StepRunsPlacedInstruction : Prop :=
  ∀ (i : Instr) (s : State), s.env.rst = false →
    step (s.withFetchWord (encodeWord i).1 (encodeWord i).2) = exec i s

/-- R242: while `rst` is deasserted, an access of the window raises AccError exactly where the rules refuse it; refused,
it has no other effect and a read returns 0; and no access raises both AccError and CmdError. -/
def Obligations.AccErrorCauses : Prop :=
  ∀ (s : State) (a : BusAccess) (rest : List Input) (offset : BitVec 8),
    s.env.inputs = .access a :: rest → s.env.rst = false → a.addr = s.cfg.base + offset.toNat →
    ∃ t, step s = .next t ∧
      (illegalAccess s a offset.toNat →
        t = if a.write then withAccErr (withInputs s rest) else afterRead (withAccErr (withInputs s rest)) 0) ∧
      (s.host.accErr = false → (t.host.accErr = true ↔ illegalAccess s a offset.toNat)) ∧
      ¬(s.host.accErr = false ∧ t.host.accErr = true ∧ s.host.cmdErr = false ∧ t.host.cmdErr = true)

/-- R261: while `rst` is asserted a host access returns 0, changes nothing and sets no flag, and no microsecond step runs;
deasserting it leaves the reset values, and the first microsecond step after that sets `s.now` to 1. -/
def Obligations.BlockHeldDuringReset : Prop :=
  ∀ (s : State) (rest : List Input), s.env.rst = true →
    (∀ (a : BusAccess) (offset : BitVec 8), s.env.inputs = .access a :: rest → a.addr = s.cfg.base + offset.toNat →
      step s = .next (if a.write then withInputs s rest else afterRead (withInputs s rest) 0)) ∧
    (∀ lvl, s.env.inputs = .microsecond lvl :: rest → step s = .next (withInputs s rest)) ∧
    (∀ lvl, s.env.inputs = .rstLevel false :: .microsecond lvl :: rest →
      ∃ t u, step s = .next t ∧ t.AtReset ∧ t.env.rst = false ∧ step t = .next u ∧ u.tb.now = 1)

/-- R260: asserting `rst`, and the end of a reset, give every field the value the rule lists, in the same configuration,
whatever the state was: a transmission ends at once with TX_DONE 0, and STATUS reads 0x000000C0 (BANK_CAP is at least 1). -/
def Obligations.HardwareResetValues : Prop :=
  ∀ (s : State) (level : Bool) (rest : List Input), s.env.inputs = .rstLevel level :: rest →
    (level = true ∨ s.env.rst = true) →
    ∃ t, step s = .next t ∧ t.cfg = s.cfg ∧ t.env.rst = level ∧ t.env.inputs = rest ∧
      t.tb.now = 0 ∧ t.tb.tickDiv = BitVec.ofNat 32 s.cfg.tickPhase ∧ t.tb.inPrev = true ∧
      t.cap.capEn = false ∧ t.cap.capturing = false ∧ t.cap.ready = false ∧ t.cap.complete = false ∧
      t.cap.count = 0 ∧ t.cap.totalMs = 0 ∧ t.cap.lastEdge = 0 ∧ t.cap.lastDb = 0 ∧ t.cap.lastLevel = true ∧
      t.cap.sessionStart = 0 ∧ t.bank.size = 0 ∧ t.bank.collectResult = .none ∧
      t.tx.carrier = 38000 ∧ t.tx.count = 0 ∧ t.tx.index = 0 ∧ t.tx.busy = false ∧ t.tx.useBuf = false ∧
      t.tx.slot = 0 ∧ t.tx.n = 0 ∧ t.tx.idx = 0 ∧ t.tx.half = 0 ∧ t.tx.segStart = 0 ∧ t.tx.next = 0 ∧
      t.tx.k = false ∧ t.tx.irOut = false ∧
      t.host = ⟨false, false, false, false, false, 0, 0, 0, 0⟩ ∧
      t.irOutPort = false ∧ t.txActivePort = false ∧ t.irq = false ∧
      (1 ≤ s.cfg.bankCap → t.statusWord = 0x000000C0)

/-- R110: a microsecond runs the counter update, then the edge the sample finds, then the detector if the counter fired a
tick, then the transmitter, each seeing the state the one before left. -/
def Obligations.MicrosecondOrder : Prop :=
  ∀ (s : State) (lvl : Bool) (rest : List Input), s.env.inputs = .microsecond lvl :: rest → s.env.rst = false →
    let s1 := withInputs s rest
    let s2 := { s1 with tb := ⟨s.tb.now + 1,
      if (s.tb.tickDiv + 1).toNat = s.cfg.tickPeriodUs then 0 else s.tb.tickDiv + 1, lvl⟩ }
    let s3 := if lvl = s.tb.inPrev then s2 else s2.edgeEvent (s.tb.now + 1) lvl
    let s4 := if (s.tb.tickDiv + 1).toNat = s.cfg.tickPeriodUs then s3.detectorTick (s.tb.now + 1) else s3
    step s = .next (s4.txStep (s.tb.now + 1))

/-- R211, R277, R261: a host access takes no time and a microsecond takes one; only hardware reset sets the counter. That a
microsecond passes where the environment's list is empty is the model's choice and no rule's (DESIGN CHOICE, log entry 5). -/
def Obligations.TimeAdvancesByMicroseconds : Prop :=
  ∀ s t : State, step s = .next t →
    match s.env.inputs with
    | [] => t.tb.now = if s.env.rst then s.tb.now else s.tb.now + 1
    | .microsecond _ :: _ => t.tb.now = if s.env.rst then s.tb.now else s.tb.now + 1
    | .access _ :: _ => t.tb = s.tb
    | .rstLevel level :: _ => t.tb.now = if level ∨ s.env.rst then 0 else s.tb.now

/-- R111: counting microseconds from hardware reset, ticks fire in exactly the steps numbered
TICK_PERIOD_US - TICK_PHASE + j * TICK_PERIOD_US, whatever is sampled on `ir_in`, and the counter counts modulo 2^32. -/
def Obligations.TicksFallOnThePeriod : Prop :=
  ∀ (s : State) (levels : List Bool), s.cfg.Legal → s.AtReset →
    let t := runMicroseconds levels s
    t.tb.now = BitVec.ofNat 32 levels.length ∧
    (t.tickFires = true ↔
      ∃ j, levels.length + 1 = s.cfg.tickPeriodUs - s.cfg.tickPhase + j * s.cfg.tickPeriodUs)

/-- The block itself never stops (R247): only an access outside the window has no next state, which is the model's choice
(log entry 8). -/
def Obligations.StepStopsOnlyOutsideTheWindow : Prop :=
  ∀ s : State,
    (∃ t, step s = .next t) ∨
    (∃ a rest, s.env.inputs = .access a :: rest ∧ ¬ s.InWindow a ∧ step s = .fault .outsideWindow)

/-! ### Invariants and rules of the whole machine -/

/-- The state right after reset satisfies the invariant (R260), in the reference configuration and with the model's own
fields as log entries 2 to 5 choose them. -/
def Obligations.InvariantHoldsAtReset : Prop := State.reset.Inv

/-- Every event keeps the invariant: the session states of R24 and R25, the timestamps and durations of R127, the masked
memories of R30, the filled slots of R160 and R161, and the transmitter of R72 and R183 to R185. -/
def Obligations.EveryStepKeepsTheInvariant : Prop :=
  ∀ s t : State, s.Inv → Sys2Proof.Machine.step s = .next t → t.Inv

/-- R221: the parameters are constants of the built block; no event, hardware reset among them, changes one. -/
def Obligations.ParametersNeverChange : Prop :=
  ∀ s t : State, step s = .next t → t.cfg = s.cfg

/-- R160: no event but hardware reset (asserting `rst`, or its release) changes a filled slot or empties the bank. -/
def Obligations.FilledSlotsAreImmutable : Prop :=
  ∀ s t : State, s.bank.size.toNat ≤ s.cfg.bankCap → s.cfg.bankCap ≤ 255 → step s = .next t →
    (∀ level rest, s.env.inputs = .rstLevel level :: rest → level = false ∧ s.env.rst = false) →
    s.bank.size.toNat ≤ t.bank.size.toNat ∧
    ∀ k < s.bank.size.toNat, t.slotAt k = s.slotAt k ∧ ∀ i, t.bankEntry k i = s.bankEntry k i

/-- R240: a sticky flag stays 1 until the host writes 1 to its bit of STATUS or hardware reset clears it. -/
def Obligations.StickyFlagsStayUntilCleared : Prop :=
  ∀ (s t : State) (b : Nat), step s = .next t → sticky s.host b = true → sticky t.host b = false →
    (∃ a rest offset wdata, s.env.inputs = .access a :: rest ∧ windowOffset s.cfg.base a.addr = some offset ∧
      decodeAccess a.write offset a.size a.wdata = .ok (.wrStatus wdata) ∧ wdata.getLsbD b = true) ∨
    (∃ level rest, s.env.inputs = .rstLevel level :: rest ∧ (level = true ∨ s.env.rst = true))

/-- R241: with CMD_ERR clear, an instruction sets it exactly where it is a CMD write of an illegal word, or a transmit
command that the start procedure refuses; then it has no other effect. -/
def Obligations.CmdErrorCauses : Prop :=
  ∀ (i : Instr) (s : State),
    let cause : Prop := match i with
      | .wrCmd w => illegalCommand w ∨
          (w.toNat % 256 = 5 ∧ transmitRefused s false (w.toNat / 256 % 256)) ∨
          (w.toNat % 256 = 6 ∧ transmitRefused s true 0)
      | .txBank slot => transmitRefused s false slot.toNat
      | .txBuf => transmitRefused s true 0
      | _ => False
    ∃ t, exec i s = .next t ∧
      (cause → t = withCmdErr s) ∧
      (s.host.cmdErr = false → (t.host.cmdErr = true ↔ cause))

/-- R189, R72: no access or command disturbs a transmission in progress: the engine, its source entries and its output
stay as they are, but for the two pointers a host may move meanwhile. -/
def Obligations.BusyTransmissionIsUndisturbed : Prop :=
  ∀ (i : Instr) (s t : State), s.tx.busy = true →
    (s.tx.useBuf = false → s.tx.slot < s.bank.size) →
    exec i s = .next t →
    engineSame s t ∧ (∀ j, t.seq j = s.seq j) ∧ (t.host.txDone = true → s.host.txDone = true)

/-- R189: capture and transmission share no state: a microsecond's effect on the time base and the capture session does
not depend on the transmitter, and its effect on the transmitter does not depend on the capture session. -/
def Obligations.CaptureAndTransmissionShareNoState : Prop :=
  ∀ (s s' : State) (lvl : Bool),
    (s.cfg = s'.cfg → s.tb = s'.tb → s.cap = s'.cap →
      (s.microsecondStep lvl).tb = (s'.microsecondStep lvl).tb ∧
      (s.microsecondStep lvl).cap = (s'.microsecondStep lvl).cap) ∧
    (s.tb.now = s'.tb.now → s.tx = s'.tx → s.bank = s'.bank → s.env = s'.env →
      (s.microsecondStep lvl).tx = (s'.microsecondStep lvl).tx)

/-- R69: what a host reads of a Ready sequence is frozen: if an event other than hardware reset leaves READY at 1, it
leaves the count, the total and every CapBuf entry as they were. -/
def Obligations.ReadySequenceIsFrozen : Prop :=
  ∀ s t : State, ready s → step s = .next t → t.cap.ready = true →
    (∀ level rest, s.env.inputs = .rstLevel level :: rest → level = false ∧ s.env.rst = false) →
    ready t ∧ t.cap.count = s.cap.count ∧ t.cap.totalMs = s.cap.totalMs ∧ t.cap.complete = s.cap.complete ∧
    ∀ i, t.capEntry i = s.capEntry i

/-! ### The edge capturer and the frame detector -/

/-- R120: an edge has no effect while capture is disabled or within DEBOUNCE_US of the last accepted edge; any other edge
is accepted, and only then do rules R121 to R125 apply. -/
def Obligations.EdgesAreGatedAndDebounced : Prop :=
  ∀ (s : State) (t : Word) (lvl : Bool),
    (¬ accepted s t → s.edgeEvent t lvl = s) ∧
    (accepted s t →
      (s.edgeEvent t lvl).cap.lastDb = t ∧ (s.edgeEvent t lvl).cap.lastEdge = t ∧
      (s.edgeEvent t lvl).cap.lastLevel = lvl)

/-- R121: an accepted rising edge while not capturing changes nothing but the timestamps and the level of R125. -/
def Obligations.RisingEdgeOutsideCaptureIsIgnored : Prop :=
  ∀ (s : State) (t : Word), accepted s t → s.cap.capturing = false →
    s.edgeEvent t true = { s with cap := { s.cap with lastDb := t, lastEdge := t, lastLevel := true } }

/-- R122: an accepted falling edge while not capturing starts an empty session at `t`, and sets LOST exactly where a Ready
sequence is overwritten; CapBuf, the bank, the transmitter and the other flags stay as they are. -/
def Obligations.FallingEdgeStartsASession : Prop :=
  ∀ (s : State) (t : Word), accepted s t → s.cap.capturing = false →
    s.edgeEvent t false = { s with
      cap := { s.cap with
        count := 0, complete := false, totalMs := 0, ready := false, capturing := true, sessionStart := t,
        lastDb := t, lastEdge := t, lastLevel := false }
      host := { s.host with lost := s.host.lost || s.cap.ready } }

/-- R123, R124, R125: what an accepted edge does while capturing, by its duration: an in-range one is appended at
`s.count`, or finalises the sequence where the buffer is full; a long one sets LONG; a short one is dropped. Everything
else stays as it is, every other CapBuf entry among it. -/
def Obligations.DurationsAreClassified : Prop :=
  ∀ (s : State) (t : Word) (lvl : Bool), accepted s t → s.cap.capturing = true →
    let dur := (t - s.cap.lastEdge).toNat
    let u := s.edgeEvent t lvl
    let stamped := { s.cap with lastDb := t, lastEdge := t, lastLevel := lvl }
    if s.cfg.minPulseUs ≤ dur ∧ dur ≤ s.cfg.maxPulseUs then
      if s.cap.count.toNat < s.cfg.capacity then
        u = { s with cap := { stamped with count := s.cap.count + 1, buf := u.cap.buf } } ∧
        u.capEntry s.cap.count.toNat = BitVec.ofNat 16 dur ∧
        ∀ i, i ≠ s.cap.count.toNat → u.capEntry i = s.capEntry i
      else
        u = { s with cap := { stamped with
          totalMs := BitVec.ofNat 32 ((t - s.cap.sessionStart).toNat / 1000)
          complete := true, capturing := false, ready := true } }
    else if s.cfg.maxPulseUs < dur then
      u = { s with cap := stamped, host := { s.host with long := true } }
    else u = { s with cap := stamped }

/-- R150: a tick finalises a session after a silence above SILENCE_GAP_US with more than MIN_VALID_COUNT entries, and
changes nothing otherwise. -/
def Obligations.DetectorFinalisesAfterSilence : Prop :=
  ∀ (s : State) (t : Word),
    s.detectorTick t =
      if s.cap.capturing = true ∧ s.cfg.silenceGapUs < (t - s.cap.lastEdge).toNat ∧
          s.cfg.minValidCount < s.cap.count.toNat then
        { s with cap := { s.cap with
          totalMs := BitVec.ofNat 32 ((t - s.cap.sessionStart).toNat / 1000)
          complete := true, capturing := false, ready := true } }
      else s

/-- R151: a session with at most MIN_VALID_COUNT entries is left hanging: as long as no edge is accepted, no number of
microseconds changes it, however long the silence. -/
def Obligations.ShortSessionHangs : Prop :=
  ∀ (s : State) (levels : List Bool), capturing s → s.cap.count.toNat ≤ s.cfg.minValidCount →
    noEdgeAccepted s levels → (runMicroseconds levels s).cap = s.cap

/-- R152: a Capturing session of more than MIN_VALID_COUNT entries, the silence not yet above the gap, becomes Ready, where
no edge is accepted meanwhile, in the microsecond of the first tick of a silence above SILENCE_GAP_US, which comes within
SILENCE_GAP_US + TICK_PERIOD_US µs of its last accepted edge; before that it is still Capturing. Capture need not be
enabled. -/
def Obligations.CompletionLatency : Prop :=
  ∀ (s : State) (levels : List Bool), s.cfg.Legal → s.tb.tickDiv.toNat < s.cfg.tickPeriodUs → capturing s →
    s.cfg.minValidCount < s.cap.count.toNat →
    (s.tb.now - s.cap.lastEdge).toNat ≤ s.cfg.silenceGapUs →
    s.cfg.silenceGapUs + s.cfg.tickPeriodUs ≤ (s.tb.now - s.cap.lastEdge).toNat + levels.length →
    noEdgeAccepted s levels →
    let silence := fun m => (s.tb.now - s.cap.lastEdge).toNat + m
    let run := fun m => runMicroseconds (levels.take m) s
    ∃ m, m + 1 ≤ levels.length ∧
      (run m).tickFires = true ∧ s.cfg.silenceGapUs < silence (m + 1) ∧
      (∀ m' < m, (run m').tickFires = true → silence (m' + 1) ≤ s.cfg.silenceGapUs) ∧
      silence (m + 1) ≤ s.cfg.silenceGapUs + s.cfg.tickPeriodUs ∧
      (∀ m' ≤ m, capturing (run m')) ∧ ready (run (m + 1))

/-- R134: the transition table of the session, over one microsecond and over each command. -/
def Obligations.SessionTransitions : Prop :=
  ∀ s : State, (idle s ∨ capturing s ∨ ready s) → s.cap.count.toNat ≤ s.cfg.capacity →
    (∀ lvl, let t := s.microsecondStep lvl
      (idle s → if acceptedSample s lvl ∧ lvl = false then capturing t else idle t) ∧
      (ready s → if acceptedSample s lvl ∧ lvl = false then capturing t ∧ t.host.lost = true else ready t) ∧
      (capturing s →
        if (acceptedSample s lvl ∧ s.cap.count.toNat = s.cfg.capacity ∧
              s.cfg.minPulseUs ≤ (s.tb.now + 1 - s.cap.lastEdge).toNat ∧
              (s.tb.now + 1 - s.cap.lastEdge).toNat ≤ s.cfg.maxPulseUs) ∨
            (¬ acceptedSample s lvl ∧ s.tickFires = true ∧
              s.cfg.silenceGapUs < (s.tb.now + 1 - s.cap.lastEdge).toNat ∧
              s.cfg.minValidCount < s.cap.count.toNat)
        then ready t
        else capturing t)) ∧
    (∀ rest, s.env.inputs = .rstLevel true :: rest → ∃ t, step s = .next t ∧ idle t) ∧
    (∀ i t, exec i s = .next t →
      match i with
      | .start => idle t
      | .reset => idle t
      | .stop => t.cap = { s.cap with capEn := false }
      | .collect => if ready s ∧ ¬ (s.cfg.minValidCount < s.cap.count.toNat ∧ s.bank.size.toNat = s.cfg.bankCap)
          then idle t else t.cap = s.cap
      | .wrCmd _ => True
      | _ => t.cap = s.cap)

/-! ### Commands -/

/-- R130, R131, R132, R133: START, STOP and RESET, by their words, always succeed, with exactly these effects; after a STOP
every edge has no effect, while the detector acts as before. -/
def Obligations.CaptureControlCommands : Prop :=
  decodeCmd 0x00000001 = .ok .start ∧ decodeCmd 0x00000002 = .ok .stop ∧ decodeCmd 0x00000003 = .ok .reset ∧
  ∀ s : State,
    (∀ t lvl, ({ s with cap := { s.cap with capEn := false } } : State).edgeEvent t lvl =
      { s with cap := { s.cap with capEn := false } }) ∧
    (∀ t, ({ s with cap := { s.cap with capEn := false } } : State).detectorTick t =
      { s.detectorTick t with cap := { (s.detectorTick t).cap with capEn := false } }) ∧
    exec .start s = .next { s with cap := { sessionCleared s.cap with capEn := true } } ∧
    exec .stop s = .next { s with cap := { s.cap with capEn := false } } ∧
    exec .reset s = .next { s with cap := sessionCleared s.cap }

/-- R218: NOP, the word 0, does nothing and raises nothing, so a write of 0 to CMD is harmless. -/
def Obligations.NopDoesNothing : Prop :=
  decodeCmd 0x00000000 = .ok .nop ∧ ∀ s : State, exec .nop s = .next s ∧ exec (.wrCmd 0) s = .next s

/-- R162, R161: COLLECT always succeeds. With no Ready sequence it only reports NONE; a sequence of at most MIN_VALID_COUNT
entries is discarded, whether or not the bank is full; with a full bank it only reports FULL; otherwise the next free slot
takes the count, the total, its own number as label and the entries, every other slot stays as it was, and the session is
reset. -/
def Obligations.CollectResults : Prop :=
  decodeCmd 0x00000004 = .ok .collect ∧
  ∀ s : State, ∃ t, exec .collect s = .next t ∧
    if s.cap.ready = false then t = { s with bank := { s.bank with collectResult := .none } }
    else if s.cap.count.toNat ≤ s.cfg.minValidCount then
      t = { s with cap := sessionCleared s.cap, bank := { s.bank with collectResult := .discarded } }
    else if s.bank.size.toNat = s.cfg.bankCap then
      t = { s with bank := { s.bank with collectResult := .full } }
    else
      let k := s.bank.size.toNat
      t = { s with cap := sessionCleared s.cap, bank := ⟨s.bank.size + 1, t.bank.slots, .stored⟩ } ∧
      (t.slotAt k).count = s.cap.count ∧ (t.slotAt k).totalMs = s.cap.totalMs ∧
      (t.slotAt k).label = BitVec.ofNat 8 k ∧
      (∀ i < s.cap.count.toNat, t.bankEntry k i = s.capEntry i) ∧
      (∀ i, s.cap.count.toNat ≤ i → t.bankEntry k i = s.bankEntry k i) ∧
      ∀ k', k' ≠ k → t.slotAt k' = s.slotAt k'

/-! ### Registers -/

/-- R214, R31: RD_STATUS returns the word whose every bit is as the table of R31 says, and changes nothing. -/
def Obligations.StatusWordBits : Prop :=
  (∀ w, decodeBus 0x000 w = .ok .rdStatus) ∧
  ∀ s : State, ∃ v : Word, exec .rdStatus s = .next (afterRead s v) ∧ ∀ b, v.getLsbD b = statusBit s b

/-- R215: WR_STATUS clears the sticky flags whose bit of `wdata` is 1, and changes nothing else. -/
def Obligations.StatusWriteOneToClear : Prop :=
  (∀ w, decodeBus 0x100 w = .ok (.wrStatus w)) ∧
  ∀ (w : Word) (s : State), ∃ t, exec (.wrStatus w) s = .next t ∧
    t = { s with host := { s.host with
      long := t.host.long, lost := t.host.lost, txDone := t.host.txDone, cmdErr := t.host.cmdErr, accErr := t.host.accErr } } ∧
    ∀ b, sticky t.host b = if w.getLsbD b then false else sticky s.host b

/-- R216, R32: IRQ_EN stores bits 1 and 16 to 20 of `wdata`, every other bit reads 0, and it is read back as stored. -/
def Obligations.IrqEnableRegister : Prop :=
  ∀ (w : Word) (s : State),
    (∃ v : Word, exec (.wrIrqEn w) s = .next { s with host := { s.host with irqEn := v } } ∧
      ∀ b, v.getLsbD b = if b = 1 ∨ (16 ≤ b ∧ b ≤ 20) then w.getLsbD b else false) ∧
    exec .rdIrqEn s = .next (afterRead s s.host.irqEn)

/-- R243: the interrupt line is 1 exactly while some source is pending and enabled. -/
def Obligations.InterruptLineIsTheEnabledPendingSources : Prop :=
  ∀ s : State, s.irq = true ↔
    ∃ b, s.host.irqEn.getLsbD b = true ∧ ((b = 1 ∧ s.cap.ready = true) ∨ sticky s.host b = true)

/-- R220, R135, R138, R165, R190, R191, R192, R194, R136, R166: each of these registers reads its field, zero-extended,
and the read changes nothing. -/
def Obligations.FieldRegistersRead : Prop :=
  ∀ s : State,
    exec .rdTime s = .next (afterRead s s.tb.now) ∧
    exec .rdCapCount s = .next (afterRead s (s.cap.count.setWidth 32)) ∧
    exec .rdCapTotalMs s = .next (afterRead s s.cap.totalMs) ∧
    exec .rdCapIndex s = .next (afterRead s (s.host.capIndex.setWidth 32)) ∧
    exec .rdLastEdgeTs s = .next (afterRead s s.cap.lastEdge) ∧
    exec .rdLastDebounceTs s = .next (afterRead s s.cap.lastDb) ∧
    exec .rdSessionStartTs s = .next (afterRead s s.cap.sessionStart) ∧
    exec .rdBankSize s = .next (afterRead s (s.bank.size.setWidth 32)) ∧
    exec .rdBankSel s = .next (afterRead s (s.host.bankSel.setWidth 32)) ∧
    exec .rdBankIndex s = .next (afterRead s (s.host.bankIndex.setWidth 32)) ∧
    exec .rdTxCarrierHz s = .next (afterRead s s.tx.carrier) ∧
    exec .rdTxCount s = .next (afterRead s (s.tx.count.setWidth 32)) ∧
    exec .rdTxIndex s = .next (afterRead s (s.tx.index.setWidth 32)) ∧
    exec .rdTxSeg s = .next (afterRead s (s.tx.idx.setWidth 32)) ∧
    exec .rdTxHalfUs s = .next (afterRead s s.tx.half)

/-- R221: the PARAM registers read the parameters, and the read changes nothing. -/
def Obligations.ParameterRegistersRead : Prop :=
  ∀ s : State,
    exec .rdParamCapacity s = .next (afterRead s (BitVec.ofNat 32 s.cfg.capacity)) ∧
    exec .rdParamBankCap s = .next (afterRead s (BitVec.ofNat 32 s.cfg.bankCap)) ∧
    exec .rdParamMinValidCount s = .next (afterRead s (BitVec.ofNat 32 s.cfg.minValidCount)) ∧
    exec .rdParamDebounceUs s = .next (afterRead s (BitVec.ofNat 32 s.cfg.debounceUs)) ∧
    exec .rdParamMinPulseUs s = .next (afterRead s (BitVec.ofNat 32 s.cfg.minPulseUs)) ∧
    exec .rdParamMaxPulseUs s = .next (afterRead s (BitVec.ofNat 32 s.cfg.maxPulseUs)) ∧
    exec .rdParamSilenceGapUs s = .next (afterRead s (BitVec.ofNat 32 s.cfg.silenceGapUs)) ∧
    exec .rdParamTickPeriodUs s = .next (afterRead s (BitVec.ofNat 32 s.cfg.tickPeriodUs))

/-- R137: CAP_DATA reads the entry at CAP_INDEX where the index is below the count, else 0, and advances nothing. -/
def Obligations.CapDataReadsTheIndexedEntry : Prop :=
  ∀ s : State, exec .rdCapData s = .next (afterRead s
    (if s.host.capIndex.toNat < s.cap.count.toNat then (s.capEntry s.host.capIndex.toNat).setWidth 32 else 0))

/-- R167, R168: the bank read-out registers read the selected slot where it is filled, BANK_DATA its entry at BANK_INDEX
where the index is below the slot's count, and 0 otherwise; the reads change nothing. -/
def Obligations.BankReadOut : Prop :=
  ∀ s : State,
    let k := s.host.bankSel.toNat
    let filled := k < s.bank.size.toNat
    exec .rdBankCount s = .next (afterRead s (if filled then (s.slotAt k).count.setWidth 32 else 0)) ∧
    exec .rdBankTotalMs s = .next (afterRead s (if filled then (s.slotAt k).totalMs else 0)) ∧
    exec .rdBankLabel s = .next (afterRead s (if filled then (s.slotAt k).label.setWidth 32 else 0)) ∧
    exec .rdBankData s = .next (afterRead s
      (if filled ∧ s.host.bankIndex.toNat < (s.slotAt k).count.toNat
        then (s.bankEntry k s.host.bankIndex.toNat).setWidth 32 else 0))

/-- R136, R166, R190, R192: the pointer and carrier registers store the bits of `wdata` at their width, ignore the rest,
and change nothing else, also while a transmission is in progress. -/
def Obligations.PointerRegistersWrite : Prop :=
  ∀ (w : Word) (s : State),
    exec (.wrCapIndex w) s = .next { s with host := { s.host with capIndex := w.setWidth 16 } } ∧
    exec (.wrBankSel w) s = .next { s with host := { s.host with bankSel := w.setWidth 8 } } ∧
    exec (.wrBankIndex w) s = .next { s with host := { s.host with bankIndex := w.setWidth 16 } } ∧
    exec (.wrTxCarrierHz w) s = .next { s with tx := { s.tx with carrier := w } } ∧
    exec (.wrTxIndex w) s = .next { s with tx := { s.tx with index := w.setWidth 16 } }

/-- R191: TX_COUNT stores a value up to CAPACITY while the transmitter is idle; any other write is refused. -/
def Obligations.TxCountWrite : Prop :=
  ∀ (w : Word) (s : State),
    exec (.wrTxCount w) s = .next
      (if s.tx.busy = false ∧ w.toNat ≤ s.cfg.capacity then { s with tx := { s.tx with count := w.setWidth 16 } }
        else withAccErr s)

/-- R193: TX_DATA stores one entry at TX_INDEX and advances the index while the transmitter is idle, the index is inside
the buffer and the value fits 16 bits; any other write is refused; every other TxBuf entry stays. RD_TX_DATA reads the
entry at TX_INDEX where it is inside the buffer, else 0, and changes nothing. -/
def Obligations.TxDataReadAndWrite : Prop :=
  ∀ (w : Word) (s : State),
    (∃ t, exec (.wrTxData w) s = .next t ∧
      if s.tx.busy = false ∧ s.tx.index.toNat < s.cfg.capacity ∧ w.toNat < 65536 then
        t = { s with tx := { s.tx with index := s.tx.index + 1, buf := t.tx.buf } } ∧
        t.txEntry s.tx.index.toNat = w.setWidth 16 ∧
        ∀ i, i ≠ s.tx.index.toNat → t.txEntry i = s.txEntry i
      else t = withAccErr s) ∧
    exec .rdTxData s = .next (afterRead s
      (if s.tx.index.toNat < s.cfg.capacity then (s.txEntry s.tx.index.toNat).setWidth 32 else 0))

/-- R65: writes to STATUS, IRQ_EN, CAP_INDEX, BANK_SEL, BANK_INDEX, TX_CARRIER_HZ, TX_COUNT and TX_INDEX are idempotent,
whatever value is written. -/
def Obligations.IdempotentWrites : Prop :=
  ∀ (w : Word) (s : State) (i : Instr),
    i ∈ [.wrStatus w, .wrIrqEn w, .wrCapIndex w, .wrBankSel w, .wrBankIndex w, .wrTxCarrierHz w, .wrTxCount w,
      .wrTxIndex w] →
    ∃ t, exec i s = .next t ∧ exec i t = .next t

/-! ### The transmitter -/

/-- R180, R181, R182: a transmit command is refused with CmdError, changing nothing else, while a transmission is in
progress, for a slot that is not filled, or for a carrier of 0 or above 500000 Hz. -/
def Obligations.TransmitRefusals : Prop :=
  ∀ (s : State) (k : SlotNo),
    (transmitRefused s false k.toNat → exec (.txBank k) s = .next (withCmdErr s)) ∧
    (transmitRefused s true 0 → exec .txBuf s = .next (withCmdErr s))

/-- R180, R183, R184: an accepted start latches the half-period 1000000 / (2 * carrier), the source and the number of
segments, and enters the first segment that is not empty at the current time: a mark with the output high for one
half-period, a space with the output low for its duration. Where every entry is 0, or there is none, the transmission is
over within the command, with TX_DONE set and the output low. Nothing else changes: the parity is written only where a mark
is entered, the time of the next event where a segment is, and the segment's start where there is a segment. -/
def Obligations.TransmitStarts : Prop :=
  ∀ (s : State) (useBuf : Bool) (slot : SlotNo), ¬ transmitRefused s useBuf slot.toNat →
    (useBuf = true → slot = 0) →
    let d := sequenceOf s useBuf slot
    ∃ t, exec (if useBuf then .txBuf else .txBank slot) s = .next t ∧
      t = { s with
        tx := { s.tx with
          busy := t.tx.busy, useBuf := useBuf, slot := slot, n := BitVec.ofNat 16 d.length, idx := t.tx.idx,
          half := BitVec.ofNat 32 (1000000 / (2 * s.tx.carrier.toNat)), segStart := t.tx.segStart,
          next := t.tx.next, k := t.tx.k, irOut := t.tx.irOut }
        host := { s.host with txDone := t.host.txDone } } ∧
      (∀ j (hj : j < d.length), d[j] ≠ 0 → (∀ i (hi : i < j), d[i] = 0) →
        t.tx.busy = true ∧ t.tx.idx.toNat = j ∧ t.tx.segStart = s.tb.now ∧ t.host.txDone = s.host.txDone ∧
        (if j % 2 = 0 then t.tx.irOut = true ∧ t.tx.k = false ∧ t.tx.next = s.tb.now + t.tx.half
          else t.tx.irOut = false ∧ t.tx.k = s.tx.k ∧ t.tx.next = s.tb.now + BitVec.ofNat 32 d[j])) ∧
      ((∀ x ∈ d, x = 0) →
        t.tx.busy = false ∧ t.tx.idx.toNat = d.length ∧ t.tx.irOut = false ∧ t.host.txDone = true ∧
        t.tx.k = s.tx.k ∧ t.tx.next = s.tx.next ∧ t.tx.segStart = if d = [] then s.tx.segStart else s.tb.now)

/-- R185: at a time that is not that of its next event, or while idle, the engine does nothing; at a half-period boundary
inside a mark it toggles the output and waits another half-period. -/
def Obligations.EngineTogglesInsideAMark : Prop :=
  ∀ (s : State) (t : Word),
    ((s.tx.busy = false ∨ t ≠ s.tx.next) → s.txStep t = s) ∧
    (s.tx.busy = true → t = s.tx.next → s.tx.idx.toNat % 2 = 0 →
      (t - s.tx.segStart).toNat < (s.seq s.tx.idx.toNat).toNat →
      s.txStep t = { s with tx := { s.tx with k := !s.tx.k, irOut := s.tx.k, next := t + s.tx.half } })

/-- R184: where the last segment ends, the engine forces the output low, clears TX_BUSY, sets TX_DONE and leaves the index
at the number of segments. -/
def Obligations.TransmissionEndsLow : Prop :=
  ∀ (s : State) (t : Word), s.tx.busy = true → t = s.tx.next → s.tx.idx + 1 = s.tx.n →
    ¬(s.tx.idx.toNat % 2 = 0 ∧ (t - s.tx.segStart).toNat < (s.seq s.tx.idx.toNat).toNat) →
    s.txStep t = { s with
      tx := { s.tx with idx := s.tx.n, irOut := false, busy := false }
      host := { s.host with txDone := true } }

/-- R186, R188: for a transmission started now, at every later microsecond, whatever is sampled on `ir_in` meanwhile, the
output is the waveform of the sequence and the half-period, TX_BUSY is 1 exactly until the last segment's end, and TX_DONE
is as it was at the start until then and set from then on. -/
def Obligations.TransmittedWaveform : Prop :=
  ∀ (s s' : State) (useBuf : Bool) (slot : SlotNo) (levels : List Bool),
    ¬ transmitRefused s useBuf slot.toNat → (useBuf = true → slot = 0) →
    exec (if useBuf then .txBuf else .txBank slot) s = .next s' →
    let h := 1000000 / (2 * s.tx.carrier.toNat)
    let d := sequenceOf s useBuf slot
    let t := runMicroseconds levels s'
    t.tx.irOut = waveform h 0 d levels.length ∧
    (t.tx.busy = true ↔ levels.length < totalLength h 0 d) ∧
    t.host.txDone = (s.host.txDone || decide (totalLength h 0 d ≤ levels.length))

/-- R188: the engine plays a mark of duration D, once entered, as a square wave of half-periods h for a whole number of
them, in all at least D and less than D + h microseconds, and a space as a low output for exactly its duration; with the
microsecond after it is past the segment, and where the next segment is not empty it has just entered that one. The bounds
on h are those of R187. -/
def Obligations.SegmentLengthBounds : Prop :=
  ∀ (s : State) (levels : List Bool), justEntered s → 1 ≤ s.tx.half.toNat → s.tx.half.toNat ≤ 500000 →
    let h := s.tx.half.toNat
    let i := s.tx.idx.toNat
    let d := (s.seq i).toNat
    let run := fun j => runMicroseconds (levels.take j) s
    ∃ L, (i % 2 = 0 → d ≤ L ∧ L < d + h ∧ L % h = 0) ∧ (i % 2 = 1 → L = d) ∧
      (∀ j < L, j ≤ levels.length →
        (run j).tx.busy = true ∧ (run j).tx.idx = s.tx.idx ∧
        (run j).tx.irOut = decide (i % 2 = 0 ∧ j / h % 2 = 0)) ∧
      (L ≤ levels.length →
        i < (run L).tx.idx.toNat ∧
        (i + 1 < s.tx.n.toNat → s.seq (i + 1) ≠ 0 → (run L).tx.idx.toNat = i + 1 ∧ justEntered (run L)))

/-- R195: a TX_BUF of a copy of a bank slot's entries plays exactly what TX_BANK plays of that slot, at every later
microsecond. -/
def Obligations.BufferCopyPlaysLikeTheSlot : Prop :=
  ∀ (s b1 b2 : State) (k : SlotNo) (levels : List Bool),
    ¬ transmitRefused s false k.toNat → s.tx.count = (s.slotAt k.toNat).count →
    (∀ i < s.tx.count.toNat, s.txEntry i = s.bankEntry k.toNat i) →
    exec (.txBank k) s = .next b1 → exec .txBuf s = .next b2 →
    (runMicroseconds levels b1).tx.irOut = (runMicroseconds levels b2).tx.irOut ∧
    (runMicroseconds levels b1).tx.busy = (runMicroseconds levels b2).tx.busy ∧
    (runMicroseconds levels b1).tx.idx = (runMicroseconds levels b2).tx.idx
end

