-- ==== Sys2Proof/Laws/Memory.lean ====
section
/-! SUPPORT. The laws of the indexed memories: read after write, writes leave every other entry alone, and every write
keeps the canonical form. -/

namespace Sys2Proof.Machine

@[simp] theorem Memory.lookup_nil (i : Nat) : Memory.lookup ([] : Memory α) i = none := rfl

@[simp] theorem Memory.lookup_cons (a : Nat) (v : α) (m : Memory α) (i : Nat) :
    Memory.lookup ((a, v) :: m) i = if a = i then some v else Memory.lookup m i := rfl

/-- Reading the entry just written gives the value written. -/
@[simp] theorem Memory.lookup_write_same (m : Memory α) (i : Nat) (v : α) : (m.write i v).lookup i = some v := by
  induction m with
  | nil => simp [Memory.write]
  | cons x m ih =>
    obtain ⟨a, w⟩ := x
    simp only [Memory.write]
    split
    · simp
    · split
      · simp
      · simp [show a ≠ i by omega, ih]

/-- A write leaves every other entry as it was. -/
theorem Memory.lookup_write_other (m : Memory α) (v : α) (h : j ≠ i) : (m.write i v).lookup j = m.lookup j := by
  induction m with
  | nil => simp [Memory.write, h.symm]
  | cons x m ih =>
    obtain ⟨a, w⟩ := x
    simp only [Memory.write]
    split
    · simp [h.symm]
    · split
      · next hia => subst hia; simp [h.symm]
      · simp [ih]

/-- What a read gives after a write, whichever entry is read. -/
theorem Memory.lookup_write (m : Memory α) (i j : Nat) (v : α) :
    (m.write i v).lookup j = if j = i then some v else m.lookup j := by
  split
  · next h => subst h; exact lookup_write_same m j v
  · next h => exact lookup_write_other m v h

/-- The indices of a memory after a write are those it had and the one written. -/
theorem Memory.mem_write (m : Memory α) (i : Nat) (v : α) (h : x ∈ m.write i v) : x = (i, v) ∨ x ∈ m := by
  induction m with
  | nil => simpa [Memory.write] using h
  | cons y m ih =>
    obtain ⟨a, w⟩ := y
    simp only [Memory.write] at h
    split at h
    · simpa using h
    · split at h
      · simp only [List.mem_cons] at h ⊢; tauto
      · simp only [List.mem_cons] at h ⊢
        rcases h with h | h
        · exact .inr (.inl h)
        · rcases ih h with h | h
          · exact .inl h
          · exact .inr (.inr h)

/-- A write keeps the indices strictly rising. -/
theorem Memory.write_wf (m : Memory α) (i : Nat) (v : α) (h : m.wf) : (m.write i v).wf := by
  induction m with
  | nil => simp [Memory.write]
  | cons y m ih =>
    obtain ⟨a, w⟩ := y
    simp only [Memory.wf, List.pairwise_cons] at h
    simp only [Memory.write]
    split
    · simp only [Memory.wf, List.pairwise_cons, List.mem_cons]
      refine ⟨?_, h⟩
      rintro x (rfl | hx)
      · assumption
      · exact lt_trans ‹_› (h.1 x hx)
    · split
      · next hia => subst hia; simpa [Memory.wf] using h
      · simp only [Memory.wf, List.pairwise_cons]
        refine ⟨fun x hx => ?_, ih h.2⟩
        rcases Memory.mem_write m i v hx with rfl | hx
        · simp; omega
        · exact h.1 x hx

/-- Two memories in canonical form that read alike are the same list. -/
theorem Memory.ext_of_lookup {m m' : Memory α} (h : m.wf) (h' : m'.wf)
    (e : ∀ i, m.lookup i = m'.lookup i) : m = m' := by
  have low : ∀ (m : Memory α) (a : Nat), (∀ x ∈ m, a < x.1) → m.lookup a = none := by
    intro m a hm
    induction m with
    | nil => rfl
    | cons y m ih =>
      obtain ⟨b, w⟩ := y
      have hb : a < b := hm (b, w) (by simp)
      simp [show b ≠ a by omega, ih fun x hx => hm x (by simp [hx])]
  induction m generalizing m' with
  | nil =>
    cases m' with
    | nil => rfl
    | cons y m' => obtain ⟨b, w⟩ := y; have := e b; simp at this
  | cons x m ih =>
    cases m' with
    | nil => obtain ⟨a, v⟩ := x; have := e a; simp at this
    | cons y m' =>
      obtain ⟨a, v⟩ := x
      obtain ⟨b, w⟩ := y
      simp only [Memory.wf, List.pairwise_cons] at h h'
      have hab : a = b := by
        by_contra hne
        rcases Nat.lt_or_ge a b with hlt | hge
        · have := e a
          rw [low ((b, w) :: m') a (by rintro x (_ | ⟨_, hx⟩); exact hlt; exact lt_trans hlt (h'.1 x hx))] at this
          simp at this
        · have hlt : b < a := by omega
          have := e b
          rw [low ((a, v) :: m) b (by rintro x (_ | ⟨_, hx⟩); exact hlt; exact lt_trans hlt (h.1 x hx))] at this
          simp at this
      subst hab
      have hv : v = w := by simpa using e a
      subst hv
      congr 1
      refine ih h.2 h'.2 fun i => ?_
      have := e i
      simp only [Memory.lookup_cons] at this
      split at this
      · next hi => subst hi; rw [low m a h.1, low m' a h'.1]
      · exact this

end Sys2Proof.Machine
end

