-- ==== Sys2Proof/Laws/State.lean ====
section
/-! SUPPORT. What each update of the state leaves where it was: one lemma per group of the state per update, so that no later
proof unfolds a record update. -/

namespace Sys2Proof.Machine

@[simp] theorem State.setTb_cfg (s : State) (x : TimeBase) : (s.setTb x).cfg = s.cfg := rfl
@[simp] theorem State.setTb_tb (s : State) (x : TimeBase) : (s.setTb x).tb = x := rfl
@[simp] theorem State.setTb_cap (s : State) (x : TimeBase) : (s.setTb x).cap = s.cap := rfl
@[simp] theorem State.setTb_bank (s : State) (x : TimeBase) : (s.setTb x).bank = s.bank := rfl
@[simp] theorem State.setTb_tx (s : State) (x : TimeBase) : (s.setTb x).tx = s.tx := rfl
@[simp] theorem State.setTb_host (s : State) (x : TimeBase) : (s.setTb x).host = s.host := rfl
@[simp] theorem State.setTb_env (s : State) (x : TimeBase) : (s.setTb x).env = s.env := rfl
@[simp] theorem State.setTb_same (s : State) : s.setTb s.tb = s := rfl
@[simp] theorem State.setTb_setTb (s : State) (x y : TimeBase) : (s.setTb x).setTb y = s.setTb y := rfl

@[simp] theorem State.setCap_cfg (s : State) (x : Session) : (s.setCap x).cfg = s.cfg := rfl
@[simp] theorem State.setCap_tb (s : State) (x : Session) : (s.setCap x).tb = s.tb := rfl
@[simp] theorem State.setCap_cap (s : State) (x : Session) : (s.setCap x).cap = x := rfl
@[simp] theorem State.setCap_bank (s : State) (x : Session) : (s.setCap x).bank = s.bank := rfl
@[simp] theorem State.setCap_tx (s : State) (x : Session) : (s.setCap x).tx = s.tx := rfl
@[simp] theorem State.setCap_host (s : State) (x : Session) : (s.setCap x).host = s.host := rfl
@[simp] theorem State.setCap_env (s : State) (x : Session) : (s.setCap x).env = s.env := rfl
@[simp] theorem State.setCap_same (s : State) : s.setCap s.cap = s := rfl
@[simp] theorem State.setCap_setCap (s : State) (x y : Session) : (s.setCap x).setCap y = s.setCap y := rfl

@[simp] theorem State.setBank_cfg (s : State) (x : SignalBank) : (s.setBank x).cfg = s.cfg := rfl
@[simp] theorem State.setBank_tb (s : State) (x : SignalBank) : (s.setBank x).tb = s.tb := rfl
@[simp] theorem State.setBank_cap (s : State) (x : SignalBank) : (s.setBank x).cap = s.cap := rfl
@[simp] theorem State.setBank_bank (s : State) (x : SignalBank) : (s.setBank x).bank = x := rfl
@[simp] theorem State.setBank_tx (s : State) (x : SignalBank) : (s.setBank x).tx = s.tx := rfl
@[simp] theorem State.setBank_host (s : State) (x : SignalBank) : (s.setBank x).host = s.host := rfl
@[simp] theorem State.setBank_env (s : State) (x : SignalBank) : (s.setBank x).env = s.env := rfl
@[simp] theorem State.setBank_same (s : State) : s.setBank s.bank = s := rfl
@[simp] theorem State.setBank_setBank (s : State) (x y : SignalBank) : (s.setBank x).setBank y = s.setBank y := rfl

@[simp] theorem State.setTx_cfg (s : State) (x : Transmitter) : (s.setTx x).cfg = s.cfg := rfl
@[simp] theorem State.setTx_tb (s : State) (x : Transmitter) : (s.setTx x).tb = s.tb := rfl
@[simp] theorem State.setTx_cap (s : State) (x : Transmitter) : (s.setTx x).cap = s.cap := rfl
@[simp] theorem State.setTx_bank (s : State) (x : Transmitter) : (s.setTx x).bank = s.bank := rfl
@[simp] theorem State.setTx_tx (s : State) (x : Transmitter) : (s.setTx x).tx = x := rfl
@[simp] theorem State.setTx_host (s : State) (x : Transmitter) : (s.setTx x).host = s.host := rfl
@[simp] theorem State.setTx_env (s : State) (x : Transmitter) : (s.setTx x).env = s.env := rfl
@[simp] theorem State.setTx_same (s : State) : s.setTx s.tx = s := rfl
@[simp] theorem State.setTx_setTx (s : State) (x y : Transmitter) : (s.setTx x).setTx y = s.setTx y := rfl

@[simp] theorem State.setHost_cfg (s : State) (x : HostRegs) : (s.setHost x).cfg = s.cfg := rfl
@[simp] theorem State.setHost_tb (s : State) (x : HostRegs) : (s.setHost x).tb = s.tb := rfl
@[simp] theorem State.setHost_cap (s : State) (x : HostRegs) : (s.setHost x).cap = s.cap := rfl
@[simp] theorem State.setHost_bank (s : State) (x : HostRegs) : (s.setHost x).bank = s.bank := rfl
@[simp] theorem State.setHost_tx (s : State) (x : HostRegs) : (s.setHost x).tx = s.tx := rfl
@[simp] theorem State.setHost_host (s : State) (x : HostRegs) : (s.setHost x).host = x := rfl
@[simp] theorem State.setHost_env (s : State) (x : HostRegs) : (s.setHost x).env = s.env := rfl
@[simp] theorem State.setHost_same (s : State) : s.setHost s.host = s := rfl
@[simp] theorem State.setHost_setHost (s : State) (x y : HostRegs) : (s.setHost x).setHost y = s.setHost y := rfl

@[simp] theorem State.setEnv_cfg (s : State) (x : Environment) : (s.setEnv x).cfg = s.cfg := rfl
@[simp] theorem State.setEnv_tb (s : State) (x : Environment) : (s.setEnv x).tb = s.tb := rfl
@[simp] theorem State.setEnv_cap (s : State) (x : Environment) : (s.setEnv x).cap = s.cap := rfl
@[simp] theorem State.setEnv_bank (s : State) (x : Environment) : (s.setEnv x).bank = s.bank := rfl
@[simp] theorem State.setEnv_tx (s : State) (x : Environment) : (s.setEnv x).tx = s.tx := rfl
@[simp] theorem State.setEnv_host (s : State) (x : Environment) : (s.setEnv x).host = s.host := rfl
@[simp] theorem State.setEnv_env (s : State) (x : Environment) : (s.setEnv x).env = x := rfl
@[simp] theorem State.setEnv_same (s : State) : s.setEnv s.env = s := rfl
@[simp] theorem State.setEnv_setEnv (s : State) (x y : Environment) : (s.setEnv x).setEnv y = s.setEnv y := rfl

@[simp] theorem State.respond_cfg (s : State) (v : Word) : (s.respond v).cfg = s.cfg := rfl
@[simp] theorem State.respond_tb (s : State) (v : Word) : (s.respond v).tb = s.tb := rfl
@[simp] theorem State.respond_cap (s : State) (v : Word) : (s.respond v).cap = s.cap := rfl
@[simp] theorem State.respond_bank (s : State) (v : Word) : (s.respond v).bank = s.bank := rfl
@[simp] theorem State.respond_tx (s : State) (v : Word) : (s.respond v).tx = s.tx := rfl
@[simp] theorem State.respond_host (s : State) (v : Word) : (s.respond v).host = s.host := rfl
@[simp] theorem State.respond_env (s : State) (v : Word) : (s.respond v).env = { s.env with rdata := v } := rfl

@[simp] theorem State.raiseCmdErr_cfg (s : State) : s.raiseCmdErr.cfg = s.cfg := rfl
@[simp] theorem State.raiseCmdErr_tb (s : State) : s.raiseCmdErr.tb = s.tb := rfl
@[simp] theorem State.raiseCmdErr_cap (s : State) : s.raiseCmdErr.cap = s.cap := rfl
@[simp] theorem State.raiseCmdErr_bank (s : State) : s.raiseCmdErr.bank = s.bank := rfl
@[simp] theorem State.raiseCmdErr_tx (s : State) : s.raiseCmdErr.tx = s.tx := rfl
@[simp] theorem State.raiseCmdErr_host (s : State) : s.raiseCmdErr.host = { s.host with cmdErr := true } := rfl
@[simp] theorem State.raiseCmdErr_env (s : State) : s.raiseCmdErr.env = s.env := rfl

@[simp] theorem State.raiseAccErr_cfg (s : State) : s.raiseAccErr.cfg = s.cfg := rfl
@[simp] theorem State.raiseAccErr_tb (s : State) : s.raiseAccErr.tb = s.tb := rfl
@[simp] theorem State.raiseAccErr_cap (s : State) : s.raiseAccErr.cap = s.cap := rfl
@[simp] theorem State.raiseAccErr_bank (s : State) : s.raiseAccErr.bank = s.bank := rfl
@[simp] theorem State.raiseAccErr_tx (s : State) : s.raiseAccErr.tx = s.tx := rfl
@[simp] theorem State.raiseAccErr_host (s : State) : s.raiseAccErr.host = { s.host with accErr := true } := rfl
@[simp] theorem State.raiseAccErr_env (s : State) : s.raiseAccErr.env = s.env := rfl

@[simp] theorem State.sessionReset_cfg (s : State) : s.sessionReset.cfg = s.cfg := rfl
@[simp] theorem State.sessionReset_tb (s : State) : s.sessionReset.tb = s.tb := rfl
@[simp] theorem State.sessionReset_cap (s : State) : s.sessionReset.cap = { s.cap with
      capturing := false, ready := false, complete := false, count := 0, totalMs := 0 } := rfl
@[simp] theorem State.sessionReset_bank (s : State) : s.sessionReset.bank = s.bank := rfl
@[simp] theorem State.sessionReset_tx (s : State) : s.sessionReset.tx = s.tx := rfl
@[simp] theorem State.sessionReset_host (s : State) : s.sessionReset.host = s.host := rfl
@[simp] theorem State.sessionReset_env (s : State) : s.sessionReset.env = s.env := rfl

@[simp] theorem State.finalize_cfg (s : State) (t : Word) : (s.finalize t).cfg = s.cfg := rfl
@[simp] theorem State.finalize_tb (s : State) (t : Word) : (s.finalize t).tb = s.tb := rfl
@[simp] theorem State.finalize_cap (s : State) (t : Word) : (s.finalize t).cap = { s.cap with
      totalMs := spanMs t s.cap.sessionStart, complete := true, capturing := false, ready := true } := rfl
@[simp] theorem State.finalize_bank (s : State) (t : Word) : (s.finalize t).bank = s.bank := rfl
@[simp] theorem State.finalize_tx (s : State) (t : Word) : (s.finalize t).tx = s.tx := rfl
@[simp] theorem State.finalize_host (s : State) (t : Word) : (s.finalize t).host = s.host := rfl
@[simp] theorem State.finalize_env (s : State) (t : Word) : (s.finalize t).env = s.env := rfl

@[simp] theorem State.clearSticky_cfg (s : State) (w : Word) : (s.clearSticky w).cfg = s.cfg := rfl
@[simp] theorem State.clearSticky_tb (s : State) (w : Word) : (s.clearSticky w).tb = s.tb := rfl
@[simp] theorem State.clearSticky_cap (s : State) (w : Word) : (s.clearSticky w).cap = s.cap := rfl
@[simp] theorem State.clearSticky_bank (s : State) (w : Word) : (s.clearSticky w).bank = s.bank := rfl
@[simp] theorem State.clearSticky_tx (s : State) (w : Word) : (s.clearSticky w).tx = s.tx := rfl
@[simp] theorem State.clearSticky_env (s : State) (w : Word) : (s.clearSticky w).env = s.env := rfl

@[simp] theorem State.appendDuration_cfg (s : State) (d : Nat) : (s.appendDuration d).cfg = s.cfg := rfl
@[simp] theorem State.appendDuration_tb (s : State) (d : Nat) : (s.appendDuration d).tb = s.tb := rfl
@[simp] theorem State.appendDuration_cap (s : State) (d : Nat) : (s.appendDuration d).cap = { s.cap with
      buf := s.cap.buf.write s.cap.count.toNat (durationEntry d), count := s.cap.count + 1 } := rfl
@[simp] theorem State.appendDuration_bank (s : State) (d : Nat) : (s.appendDuration d).bank = s.bank := rfl
@[simp] theorem State.appendDuration_tx (s : State) (d : Nat) : (s.appendDuration d).tx = s.tx := rfl
@[simp] theorem State.appendDuration_host (s : State) (d : Nat) : (s.appendDuration d).host = s.host := rfl
@[simp] theorem State.appendDuration_env (s : State) (d : Nat) : (s.appendDuration d).env = s.env := rfl

@[simp] theorem State.setCollectResult_cfg (s : State) (r : CollectResult) : (s.setCollectResult r).cfg = s.cfg := rfl
@[simp] theorem State.setCollectResult_tb (s : State) (r : CollectResult) : (s.setCollectResult r).tb = s.tb := rfl
@[simp] theorem State.setCollectResult_cap (s : State) (r : CollectResult) : (s.setCollectResult r).cap = s.cap := rfl
@[simp] theorem State.setCollectResult_bank (s : State) (r : CollectResult) : (s.setCollectResult r).bank = { s.bank with collectResult := r } := rfl
@[simp] theorem State.setCollectResult_tx (s : State) (r : CollectResult) : (s.setCollectResult r).tx = s.tx := rfl
@[simp] theorem State.setCollectResult_host (s : State) (r : CollectResult) : (s.setCollectResult r).host = s.host := rfl
@[simp] theorem State.setCollectResult_env (s : State) (r : CollectResult) : (s.setCollectResult r).env = s.env := rfl

@[simp] theorem State.counterUpdate_cfg (s : State) : s.counterUpdate.cfg = s.cfg := rfl
@[simp] theorem State.counterUpdate_cap (s : State) : s.counterUpdate.cap = s.cap := rfl
@[simp] theorem State.counterUpdate_bank (s : State) : s.counterUpdate.bank = s.bank := rfl
@[simp] theorem State.counterUpdate_tx (s : State) : s.counterUpdate.tx = s.tx := rfl
@[simp] theorem State.counterUpdate_host (s : State) : s.counterUpdate.host = s.host := rfl
@[simp] theorem State.counterUpdate_env (s : State) : s.counterUpdate.env = s.env := rfl

@[simp] theorem State.txEnd_cfg (s : State) : s.txEnd.cfg = s.cfg := rfl
@[simp] theorem State.txEnd_tb (s : State) : s.txEnd.tb = s.tb := rfl
@[simp] theorem State.txEnd_cap (s : State) : s.txEnd.cap = s.cap := rfl
@[simp] theorem State.txEnd_bank (s : State) : s.txEnd.bank = s.bank := rfl
@[simp] theorem State.txEnd_tx (s : State) : s.txEnd.tx = { s.tx with irOut := false, busy := false } := rfl
@[simp] theorem State.txEnd_host (s : State) : s.txEnd.host = { s.host with txDone := true } := rfl
@[simp] theorem State.txEnd_env (s : State) : s.txEnd.env = s.env := rfl

@[simp] theorem State.hardwareReset_cfg (s : State) : s.hardwareReset.cfg = s.cfg := rfl
@[simp] theorem State.hardwareReset_tb (s : State) : s.hardwareReset.tb = TimeBase.reset s.cfg := rfl
@[simp] theorem State.hardwareReset_cap (s : State) : s.hardwareReset.cap = Session.reset := rfl
@[simp] theorem State.hardwareReset_bank (s : State) : s.hardwareReset.bank = SignalBank.reset := rfl
@[simp] theorem State.hardwareReset_tx (s : State) : s.hardwareReset.tx = Transmitter.reset := rfl
@[simp] theorem State.hardwareReset_host (s : State) : s.hardwareReset.host = HostRegs.reset := rfl
@[simp] theorem State.hardwareReset_env (s : State) : s.hardwareReset.env = s.env := rfl

/-- Every memory of the block right after reset is in canonical form. -/
theorem State.reset_memories_wf :
    Memory.wf State.reset.cap.buf ∧ Memory.wf State.reset.tx.buf ∧ Memory.wf State.reset.bank.slots :=
  ⟨.nil, .nil, .nil⟩

end Sys2Proof.Machine
end

