-- ==== Sys2Proof/Laws/Transmit.lean ====
section
/-! SUPPORT. What the transmitter's procedures can do, said once: they change the engine's fields and TX_DONE, nothing else;
and where EnterSegment comes to rest. -/

namespace Sys2Proof.Machine

/-- The sequence played depends on the source, its memories and the reset count only (R183). -/
theorem State.seq_congr {s t : State} (hu : t.tx.useBuf = s.tx.useBuf) (hs : t.tx.slot = s.tx.slot)
    (hm : t.tx.buf = s.tx.buf) (hb : t.bank.slots = s.bank.slots) (he : t.env.epoch = s.env.epoch) (i : Nat) :
    t.seq i = s.seq i := by
  simp [State.seq, State.txEntry, State.bankEntry, State.slotAt, hu, hs, hm, hb, he]

/-- EnterSegment changes the engine's position, its output and TX_DONE (R183, R184). -/
theorem State.enterSegmentLoop_frame (t : Word) (left : Nat) (s : State) :
    ∃ busy idx segStart next k irOut done,
      State.enterSegmentLoop t left s = { s with
        tx := { s.tx with busy := busy, idx := idx, segStart := segStart, next := next, k := k, irOut := irOut }
        host := { s.host with txDone := done } } := by
  induction left generalizing s with
  | zero => exact ⟨_, _, _, _, _, _, _, rfl⟩
  | succ left ih =>
    simp only [State.enterSegmentLoop]
    split
    · exact ⟨_, _, _, _, _, _, _, rfl⟩
    · split
      · split
        · obtain ⟨_, _, _, _, _, _, _, h⟩ := ih ((s.setTx { s.tx with segStart := t }).setTx
            { (s.setTx { s.tx with segStart := t }).tx with idx := (s.setTx { s.tx with segStart := t }).tx.idx + 1 })
          rw [h]
          exact ⟨_, _, _, _, _, _, _, rfl⟩
        · exact ⟨_, _, _, _, _, _, s.host.txDone, rfl⟩
      · split
        · obtain ⟨_, _, _, _, _, _, _, h⟩ := ih (((s.setTx { s.tx with segStart := t }).setTx
            { (s.setTx { s.tx with segStart := t }).tx with irOut := false }).setTx
            { ((s.setTx { s.tx with segStart := t }).setTx
              { (s.setTx { s.tx with segStart := t }).tx with irOut := false }).tx with
              idx := ((s.setTx { s.tx with segStart := t }).setTx
                { (s.setTx { s.tx with segStart := t }).tx with irOut := false }).tx.idx + 1 })
          rw [h]
          exact ⟨_, _, _, _, _, _, _, rfl⟩
        · exact ⟨_, _, _, _, _, _, s.host.txDone, rfl⟩

/-- One turn of EnterSegment over a segment of duration 0 (R183). -/
theorem State.enterSegmentLoop_skip (t : Word) (left : Nat) (s : State) (hn : s.tx.idx ≠ s.tx.n)
    (hz : s.seq s.tx.idx.toNat = 0) :
    ∃ irOut, State.enterSegmentLoop t (left + 1) s =
      State.enterSegmentLoop t left (s.setTx { s.tx with segStart := t, irOut := irOut, idx := s.tx.idx + 1 }) := by
  simp only [State.enterSegmentLoop, if_neg hn, hz, if_true]
  split
  · exact ⟨s.tx.irOut, rfl⟩
  · exact ⟨false, rfl⟩

/-- EnterSegment comes to rest in the first segment that is not empty (R183): a mark with the output high for its first
half-period, a space with the output low for its duration. -/
theorem State.enterSegmentLoop_stops (t : Word) (left : Nat) (s : State) (j : Nat)
    (hl : s.tx.idx.toNat + left = s.tx.n.toNat) (hij : s.tx.idx.toNat ≤ j) (hj : j < s.tx.n.toNat)
    (hne : s.seq j ≠ 0) (hz : ∀ i, s.tx.idx.toNat ≤ i → i < j → s.seq i = 0) :
    State.enterSegmentLoop t left s = s.setTx { s.tx with
      idx := BitVec.ofNat 16 j
      segStart := t
      irOut := decide (j % 2 = 0)
      k := if j % 2 = 0 then false else s.tx.k
      next := if j % 2 = 0 then t + s.tx.half else t + zext32 (s.seq j) } := by
  induction left generalizing s with
  | zero => omega
  | succ left ih =>
    have hn : s.tx.idx ≠ s.tx.n := fun h => by rw [h] at hl; omega
    rcases Nat.lt_or_ge s.tx.idx.toNat j with hlt | hge
    · obtain ⟨o, ho⟩ := State.enterSegmentLoop_skip t left s hn (hz _ le_rfl hlt)
      have hsucc : (s.tx.idx + 1).toNat = s.tx.idx.toNat + 1 := by
        have := s.tx.n.isLt
        rw [BitVec.toNat_add]
        simp
        omega
      have hseq : ∀ i, (s.setTx { s.tx with segStart := t, irOut := o, idx := s.tx.idx + 1 }).seq i = s.seq i :=
        fun i => State.seq_congr rfl rfl rfl rfl rfl i
      rw [ho, ih (s.setTx { s.tx with segStart := t, irOut := o, idx := s.tx.idx + 1 })
        (by simp only [State.setTx_tx, hsucc]; omega) (by simp only [State.setTx_tx, hsucc]; omega)
        (by simpa using hj) (by rw [hseq]; exact hne)
        (fun i h1 h2 => by
          rw [hseq]
          simp only [State.setTx_tx, hsucc] at h1
          exact hz i (by omega) h2)]
      simp only [State.setTx_tx, State.setTx_setTx, hseq]
    · have hje : j = s.tx.idx.toNat := by omega
      subst hje
      have hidx : BitVec.ofNat 16 s.tx.idx.toNat = s.tx.idx := by simp
      have hne' : s.seq s.tx.idx.toNat ≠ 0#16 := hne
      by_cases he : s.tx.idx.toNat % 2 = 0 <;>
        simp [State.enterSegmentLoop, hn, hne', isMark, he, hidx, State.setTx]

/-- EnterSegment ends the transmission where every segment left is empty (R183, R184); each one skipped was entered at `t`. -/
theorem State.enterSegmentLoop_ends (t : Word) (left : Nat) (s : State)
    (hl : s.tx.idx.toNat + left = s.tx.n.toNat)
    (hz : ∀ i, s.tx.idx.toNat ≤ i → i < s.tx.n.toNat → s.seq i = 0) :
    State.enterSegmentLoop t left s = { s with
      tx := { s.tx with
        idx := s.tx.n, segStart := if s.tx.idx = s.tx.n then s.tx.segStart else t, irOut := false, busy := false }
      host := { s.host with txDone := true } } := by
  induction left generalizing s with
  | zero =>
    have hn : s.tx.idx = s.tx.n := BitVec.eq_of_toNat_eq (by omega)
    rw [if_pos hn, ← hn]
    rfl
  | succ left ih =>
    have hn : s.tx.idx ≠ s.tx.n := fun h => by rw [h] at hl; omega
    obtain ⟨o, ho⟩ := State.enterSegmentLoop_skip t left s hn (hz _ le_rfl (by omega))
    have hsucc : (s.tx.idx + 1).toNat = s.tx.idx.toNat + 1 := by
      have := s.tx.n.isLt
      rw [BitVec.toNat_add]
      simp
      omega
    have hseq : ∀ i, (s.setTx { s.tx with segStart := t, irOut := o, idx := s.tx.idx + 1 }).seq i = s.seq i :=
      fun i => State.seq_congr rfl rfl rfl rfl rfl i
    rw [ho, ih (s.setTx { s.tx with segStart := t, irOut := o, idx := s.tx.idx + 1 })
      (by simp only [State.setTx_tx, hsucc]; omega)
      (fun i h1 h2 => by
        simp only [State.setTx_tx, hsucc] at h1 h2
        exact (hseq i).trans (hz i (by omega) h2))]
    simp only [State.setTx, if_neg hn, State.mk.injEq, Transmitter.mk.injEq, true_and, and_true]
    exact ite_self t

/-- The number of turns EnterSegment takes when the index is not past the end. -/
theorem segments_left {idx n : Entry} (h : idx.toNat ≤ n.toNat) : idx.toNat + (n - idx).toNat = n.toNat := by
  rw [BitVec.toNat_sub_of_le (by simpa [BitVec.le_def] using h)]
  omega

/-- EnterSegment in the first segment that is not empty. -/
theorem State.enterSegment_stops (s : State) (t : Word) (j : Nat) (hij : s.tx.idx.toNat ≤ j) (hj : j < s.tx.n.toNat)
    (hne : s.seq j ≠ 0) (hz : ∀ i, s.tx.idx.toNat ≤ i → i < j → s.seq i = 0) :
    s.enterSegment t = s.setTx { s.tx with
      idx := BitVec.ofNat 16 j
      segStart := t
      irOut := decide (j % 2 = 0)
      k := if j % 2 = 0 then false else s.tx.k
      next := if j % 2 = 0 then t + s.tx.half else t + zext32 (s.seq j) } :=
  State.enterSegmentLoop_stops t _ s j (segments_left (by omega)) hij hj hne hz

/-- EnterSegment where every segment left is empty. -/
theorem State.enterSegment_ends (s : State) (t : Word) (hi : s.tx.idx.toNat ≤ s.tx.n.toNat)
    (hz : ∀ i, s.tx.idx.toNat ≤ i → i < s.tx.n.toNat → s.seq i = 0) :
    s.enterSegment t = { s with
      tx := { s.tx with
        idx := s.tx.n, segStart := if s.tx.idx = s.tx.n then s.tx.segStart else t, irOut := false, busy := false }
      host := { s.host with txDone := true } } :=
  State.enterSegmentLoop_ends t _ s (segments_left hi) hz

/-- The engine's step changes the engine's position, its output and TX_DONE (R185). -/
theorem State.txStep_frame (s : State) (t : Word) :
    ∃ busy idx segStart next k irOut done, s.txStep t = { s with
      tx := { s.tx with busy := busy, idx := idx, segStart := segStart, next := next, k := k, irOut := irOut }
      host := { s.host with txDone := done } } := by
  unfold State.txStep
  split
  · exact ⟨_, _, _, _, _, _, _, rfl⟩
  · split
    · exact ⟨_, _, _, _, _, _, s.host.txDone, rfl⟩
    · obtain ⟨_, _, _, _, _, _, _, h⟩ :=
        State.enterSegmentLoop_frame t ((s.setTx { s.tx with idx := s.tx.idx + 1 }).tx.n -
          (s.setTx { s.tx with idx := s.tx.idx + 1 }).tx.idx).toNat (s.setTx { s.tx with idx := s.tx.idx + 1 })
      unfold State.enterSegment
      rw [h]
      exact ⟨_, _, _, _, _, _, _, rfl⟩

@[simp] theorem State.txStep_cfg (s : State) (t : Word) : (s.txStep t).cfg = s.cfg := by
  obtain ⟨_, _, _, _, _, _, _, h⟩ := s.txStep_frame t; rw [h]
@[simp] theorem State.txStep_tb (s : State) (t : Word) : (s.txStep t).tb = s.tb := by
  obtain ⟨_, _, _, _, _, _, _, h⟩ := s.txStep_frame t; rw [h]
@[simp] theorem State.txStep_cap (s : State) (t : Word) : (s.txStep t).cap = s.cap := by
  obtain ⟨_, _, _, _, _, _, _, h⟩ := s.txStep_frame t; rw [h]
@[simp] theorem State.txStep_bank (s : State) (t : Word) : (s.txStep t).bank = s.bank := by
  obtain ⟨_, _, _, _, _, _, _, h⟩ := s.txStep_frame t; rw [h]
@[simp] theorem State.txStep_env (s : State) (t : Word) : (s.txStep t).env = s.env := by
  obtain ⟨_, _, _, _, _, _, _, h⟩ := s.txStep_frame t; rw [h]

/-- A start that is not refused (R180). -/
theorem txStart_accepted (useBuf : Bool) (slot : SlotNo) (s : State) (h : s.txStartRefused useBuf slot = false) :
    txStart useBuf slot s = (s.setTx { s.tx with
      half := halfPeriod s.tx.carrier
      useBuf := useBuf
      slot := slot
      n := if useBuf then s.tx.count else (s.slotAt slot.toNat).count
      idx := 0
      busy := true }).enterSegment s.tb.now := by
  unfold txStart
  rw [h]
  rfl

/-- A start changes the engine's fields and TX_DONE, nothing else (R180). -/
theorem txStart_frame (useBuf : Bool) (slot : SlotNo) (s : State) (h : s.txStartRefused useBuf slot = false) :
    ∃ busy idx segStart next k irOut done, txStart useBuf slot s = { s with
      tx := { s.tx with
        half := halfPeriod s.tx.carrier, useBuf := useBuf, slot := slot
        n := if useBuf then s.tx.count else (s.slotAt slot.toNat).count
        busy := busy, idx := idx, segStart := segStart, next := next, k := k, irOut := irOut }
      host := { s.host with txDone := done } } := by
  rw [txStart_accepted useBuf slot s h]
  unfold State.enterSegment
  obtain ⟨_, _, _, _, _, _, _, hf⟩ := State.enterSegmentLoop_frame s.tb.now (_) (s.setTx { s.tx with
      half := halfPeriod s.tx.carrier
      useBuf := useBuf
      slot := slot
      n := if useBuf then s.tx.count else (s.slotAt slot.toNat).count
      idx := 0
      busy := true })
  rw [hf]
  exact ⟨_, _, _, _, _, _, _, rfl⟩

/-- The three conditions under which a start is refused, on numbers (R180). -/
theorem State.txStartRefused_iff (s : State) (useBuf : Bool) (slot : SlotNo) :
    s.txStartRefused useBuf slot = true ↔ s.tx.busy = true ∨ (useBuf = false ∧ s.bank.size.toNat ≤ slot.toNat) ∨
      s.tx.carrier.toNat = 0 ∨ 500000 < s.tx.carrier.toNat := by
  have h0 : s.tx.carrier = 0#32 ↔ s.tx.carrier.toNat = 0 := by rw [← BitVec.toNat_inj]; rfl
  have h5 : (500000#32).toNat = 500000 := rfl
  unfold State.txStartRefused
  simp only [Bool.or_eq_true, Bool.and_eq_true, Bool.not_eq_true', decide_eq_true_eq, BitVec.le_def, BitVec.lt_def,
    h0, h5]
  tauto

/-- A start that is refused (R180, R240). -/
theorem txStart_refused (useBuf : Bool) (slot : SlotNo) (s : State) (h : s.txStartRefused useBuf slot = true) :
    txStart useBuf slot s = s.raiseCmdErr := by
  unfold txStart
  rw [h]
  rfl

end Sys2Proof.Machine
end

