-- ==== Sys2Proof/Laws/Bank.lean ====
section
/-! SUPPORT. What COLLECT can do, said once, and what the bank reads after it. -/

namespace Sys2Proof.Machine

/-- What a read gives after a copy: the copied entries below `n`, the old ones from there on (R162). -/
theorem copyEntries_lookup (f : Nat → Entry) (m : Memory Entry) (n i : Nat) :
    (copyEntries f m n).lookup i = if i < n then some (f i) else m.lookup i := by
  induction n with
  | zero => simp [copyEntries]
  | succ n ih =>
    simp only [copyEntries, Memory.lookup_write, ih]
    by_cases h : i = n
    · subst h; simp
    · simp only [h, if_false]; congr 1; simp; omega

/-- A copy keeps the canonical form. -/
theorem copyEntries_wf (f : Nat → Entry) (m : Memory Entry) (n : Nat) (h : m.wf) : (copyEntries f m n).wf := by
  induction n with
  | zero => exact h
  | succ n ih => exact Memory.write_wf _ _ _ ih

/-- A copy writes below `n` only. -/
theorem mem_copyEntries (f : Nat → Entry) (m : Memory Entry) (n : Nat) :
    ∀ x ∈ copyEntries f m n, x.1 < n ∨ x ∈ m := by
  induction n with
  | zero => exact fun x hx => .inr hx
  | succ n ih =>
    intro x hx
    rcases Memory.mem_write _ _ _ hx with rfl | hx
    · exact .inl (by simp)
    · exact (ih x hx).imp (by omega) id

/-- Everything COLLECT can do (R162). -/
theorem cmdCollect_cases (s : State) :
    (s.cap.ready = false ∧ cmdCollect s = s.setCollectResult .none) ∨
    (s.cap.ready = true ∧ s.cap.count.toNat ≤ s.cfg.minValidCount ∧
      cmdCollect s = s.sessionReset.setCollectResult .discarded) ∨
    (s.cap.ready = true ∧ s.cfg.minValidCount < s.cap.count.toNat ∧ s.bank.size.toNat = s.cfg.bankCap ∧
      cmdCollect s = s.setCollectResult .full) ∨
    (s.cap.ready = true ∧ s.cfg.minValidCount < s.cap.count.toNat ∧ s.bank.size.toNat ≠ s.cfg.bankCap ∧
      cmdCollect s = { s with
        cap := s.sessionReset.cap
        bank := ⟨s.bank.size + 1, s.bank.slots.write s.bank.size.toNat (s.collectedSlot s.bank.size.toNat), .stored⟩ }) := by
  unfold cmdCollect
  by_cases hr : s.cap.ready = false
  · exact .inl ⟨hr, if_pos hr⟩
  · have hr' : s.cap.ready = true := by simpa using hr
    rw [if_neg hr]
    by_cases hc : s.cap.count.toNat ≤ s.cfg.minValidCount
    · exact .inr (.inl ⟨hr', hc, if_pos hc⟩)
    · rw [if_neg hc]
      by_cases hf : s.bank.size.toNat = s.cfg.bankCap
      · exact .inr (.inr (.inl ⟨hr', by omega, hf, by simp [State.bankFull, hf]⟩))
      · exact .inr (.inr (.inr ⟨hr', by omega, hf, by simp [State.bankFull, hf]; rfl⟩))

/-- What the bank reads after one slot is written. -/
theorem State.slotAt_of_write {s t : State} {k : Nat} {slot : Slot}
    (hb : t.bank.slots = s.bank.slots.write k slot) (he : t.env.epoch = s.env.epoch) (j : Nat) :
    t.slotAt j = if j = k then slot else s.slotAt j := by
  simp only [State.slotAt, hb, he, Memory.lookup_write]
  split <;> rfl

/-- An entry of a slot depends on the slot and the reset count only. -/
theorem State.bankEntry_congr {s t : State} {k : Nat} (h : t.slotAt k = s.slotAt k) (he : t.env.epoch = s.env.epoch)
    (i : Nat) : t.bankEntry k i = s.bankEntry k i := by
  simp only [State.bankEntry, h, he]

/-- The sequence played is the same where its source is. -/
theorem State.seq_congr_source {s t : State} (hu : t.tx.useBuf = s.tx.useBuf) (hs : t.tx.slot = s.tx.slot)
    (hm : t.tx.buf = s.tx.buf) (he : t.env.epoch = s.env.epoch)
    (hk : s.tx.useBuf = false → t.slotAt s.tx.slot.toNat = s.slotAt s.tx.slot.toNat) (i : Nat) :
    t.seq i = s.seq i := by
  unfold State.seq
  rw [hu, hs]
  cases h : s.tx.useBuf with
  | true => simp [State.txEntry, hm, he]
  | false => simpa using State.bankEntry_congr (hk h) he i

/-- A memory has no entry at or above a bound of its indices. -/
theorem Memory.lookup_none {m : Memory α} {k : Nat} (h : ∀ x ∈ m, x.1 < k) : m.lookup k = none := by
  induction m with
  | nil => rfl
  | cons x m ih =>
    obtain ⟨a, v⟩ := x
    have ha : a < k := h (a, v) (by simp)
    rw [Memory.lookup_cons, if_neg (by omega), ih fun x hx => h x (by simp [hx])]

end Sys2Proof.Machine
end

