-- ==== Sys2Proof/Laws/Capture.lean ====
section
/-! SUPPORT. What the edge capturer and the frame detector can do to a state, said once: the capture session and the flags
LONG and LOST, nothing else; and what each case does to the session. -/

namespace Sys2Proof.Machine

/-- Start-of-signal as one update (R122). -/
theorem State.startOfSignal_eq (s : State) (t : Word) :
    s.startOfSignal t = { s with
      cap := { s.cap with
        count := 0, complete := false, totalMs := 0, ready := false, capturing := true, sessionStart := t }
      host := { s.host with lost := s.host.lost || s.cap.ready } } := by
  unfold State.startOfSignal
  cases h : s.cap.ready <;> simp [State.setCap, State.setHost]

/-- Everything an edge can do while capturing (R123). -/
theorem State.inCapture_cases (s : State) (t : Word) :
    (s.cfg.minPulseUs ≤ elapsed t s.cap.lastEdge ∧ elapsed t s.cap.lastEdge ≤ s.cfg.maxPulseUs ∧
      s.cap.count.toNat < s.cfg.capacity ∧ s.inCapture t = s.appendDuration (elapsed t s.cap.lastEdge)) ∨
    (s.cfg.minPulseUs ≤ elapsed t s.cap.lastEdge ∧ elapsed t s.cap.lastEdge ≤ s.cfg.maxPulseUs ∧
      s.cfg.capacity ≤ s.cap.count.toNat ∧ s.inCapture t = s.finalize t) ∨
    (¬(s.cfg.minPulseUs ≤ elapsed t s.cap.lastEdge ∧ elapsed t s.cap.lastEdge ≤ s.cfg.maxPulseUs) ∧
      s.cfg.maxPulseUs < elapsed t s.cap.lastEdge ∧
      s.inCapture t = s.setHost { s.host with long := true }) ∨
    (¬(s.cfg.minPulseUs ≤ elapsed t s.cap.lastEdge ∧ elapsed t s.cap.lastEdge ≤ s.cfg.maxPulseUs) ∧
      ¬ s.cfg.maxPulseUs < elapsed t s.cap.lastEdge ∧ s.inCapture t = s) := by
  unfold State.inCapture
  by_cases h : s.cfg.minPulseUs ≤ elapsed t s.cap.lastEdge ∧ elapsed t s.cap.lastEdge ≤ s.cfg.maxPulseUs
  · by_cases hc : s.cap.count.toNat < s.cfg.capacity
    · exact .inl ⟨h.1, h.2, hc, by simp [h, hc]⟩
    · exact .inr (.inl ⟨h.1, h.2, by omega, by simp [h, hc]⟩)
  · by_cases hl : s.cfg.maxPulseUs < elapsed t s.cap.lastEdge
    · exact .inr (.inr (.inl ⟨h, hl, by simp [h, hl]⟩))
    · exact .inr (.inr (.inr ⟨h, hl, by simp [h, hl]⟩))

/-- An edge changes nothing but the capture session, LONG and LOST (R120 to R125). -/
theorem State.edgeEvent_frame (s : State) (t : Word) (lvl : Bool) :
    ∃ cap long lost, s.edgeEvent t lvl = { s with cap := cap, host := { s.host with long := long, lost := lost } } := by
  unfold State.edgeEvent
  split
  · unfold State.acceptedEdge
    dsimp only
    split
    · rcases State.inCapture_cases (s.setCap { s.cap with lastDb := t }) t with h | h | h | h
      · rw [h.2.2.2]; exact ⟨_, s.host.long, s.host.lost, rfl⟩
      · rw [h.2.2.2]; exact ⟨_, s.host.long, s.host.lost, rfl⟩
      · rw [h.2.2]; exact ⟨_, true, s.host.lost, rfl⟩
      · rw [h.2.2]; exact ⟨_, s.host.long, s.host.lost, rfl⟩
    · split
      · exact ⟨_, s.host.long, s.host.lost, rfl⟩
      · rw [State.startOfSignal_eq]; exact ⟨_, s.host.long, _, rfl⟩
  · exact ⟨s.cap, s.host.long, s.host.lost, rfl⟩

/-- An edge that is not accepted changes nothing (R120). -/
theorem State.edgeEvent_rejected (s : State) (t : Word) (lvl : Bool) (h : s.acceptsEdge t = false) :
    s.edgeEvent t lvl = s := by
  simp [State.edgeEvent, h]

/-- An edge that is accepted (R120). -/
theorem State.edgeEvent_accepted (s : State) (t : Word) (lvl : Bool) (h : s.acceptsEdge t = true) :
    s.edgeEvent t lvl = s.acceptedEdge t lvl := by
  simp [State.edgeEvent, h]

/-- An edge is accepted while capture is enabled and outside the debounce window (R120). -/
theorem State.acceptsEdge_iff (s : State) (t : Word) :
    s.acceptsEdge t = true ↔ s.cap.capEn = true ∧ s.cfg.debounceUs ≤ elapsed t s.cap.lastDb := by
  simp [State.acceptsEdge]

/-- An edge acts on a state whatever its time base (R120). -/
theorem State.edgeEvent_withTb (s : State) (x : TimeBase) (t : Word) (lvl : Bool) :
    ({ s with tb := x } : State).edgeEvent t lvl = { s.edgeEvent t lvl with tb := x } := by
  unfold State.edgeEvent State.acceptsEdge State.acceptedEdge State.inCapture State.startOfSignal
  dsimp only [State.setCap]
  split
  · split
    · split
      · split <;> rfl
      · split <;> rfl
    · split
      · rfl
      · split <;> rfl
  · rfl

@[simp] theorem State.edgeEvent_cfg (s : State) (t : Word) (lvl : Bool) : (s.edgeEvent t lvl).cfg = s.cfg := by
  obtain ⟨_, _, _, h⟩ := s.edgeEvent_frame t lvl; rw [h]
@[simp] theorem State.edgeEvent_tb (s : State) (t : Word) (lvl : Bool) : (s.edgeEvent t lvl).tb = s.tb := by
  obtain ⟨_, _, _, h⟩ := s.edgeEvent_frame t lvl; rw [h]
@[simp] theorem State.edgeEvent_bank (s : State) (t : Word) (lvl : Bool) : (s.edgeEvent t lvl).bank = s.bank := by
  obtain ⟨_, _, _, h⟩ := s.edgeEvent_frame t lvl; rw [h]
@[simp] theorem State.edgeEvent_tx (s : State) (t : Word) (lvl : Bool) : (s.edgeEvent t lvl).tx = s.tx := by
  obtain ⟨_, _, _, h⟩ := s.edgeEvent_frame t lvl; rw [h]
@[simp] theorem State.edgeEvent_env (s : State) (t : Word) (lvl : Bool) : (s.edgeEvent t lvl).env = s.env := by
  obtain ⟨_, _, _, h⟩ := s.edgeEvent_frame t lvl; rw [h]

/-- The input sample changes nothing but the sampled level, the capture session, LONG and LOST (R112, R113). -/
theorem State.sampleInput_frame (s : State) (lvl : Bool) :
    ∃ cap long lost, s.sampleInput lvl = { s with
      tb := { s.tb with inPrev := lvl }, cap := cap, host := { s.host with long := long, lost := lost } } := by
  unfold State.sampleInput
  split
  · next h => subst h; exact ⟨s.cap, s.host.long, s.host.lost, rfl⟩
  · obtain ⟨c, a, b, h⟩ := State.edgeEvent_frame (s.setTb { s.tb with inPrev := lvl }) s.tb.now lvl
    rw [h]
    exact ⟨c, a, b, rfl⟩

/-- The detector changes nothing but the capture session (R150). -/
theorem State.detectorTick_frame (s : State) (t : Word) : ∃ cap, s.detectorTick t = s.setCap cap := by
  unfold State.detectorTick
  split
  · exact ⟨_, rfl⟩
  · exact ⟨s.cap, rfl⟩

@[simp] theorem State.detectorTick_cfg (s : State) (t : Word) : (s.detectorTick t).cfg = s.cfg := by
  obtain ⟨_, h⟩ := s.detectorTick_frame t; rw [h]; rfl
@[simp] theorem State.detectorTick_tb (s : State) (t : Word) : (s.detectorTick t).tb = s.tb := by
  obtain ⟨_, h⟩ := s.detectorTick_frame t; rw [h]; rfl
@[simp] theorem State.detectorTick_bank (s : State) (t : Word) : (s.detectorTick t).bank = s.bank := by
  obtain ⟨_, h⟩ := s.detectorTick_frame t; rw [h]; rfl
@[simp] theorem State.detectorTick_tx (s : State) (t : Word) : (s.detectorTick t).tx = s.tx := by
  obtain ⟨_, h⟩ := s.detectorTick_frame t; rw [h]; rfl
@[simp] theorem State.detectorTick_host (s : State) (t : Word) : (s.detectorTick t).host = s.host := by
  obtain ⟨_, h⟩ := s.detectorTick_frame t; rw [h]; rfl
@[simp] theorem State.detectorTick_env (s : State) (t : Word) : (s.detectorTick t).env = s.env := by
  obtain ⟨_, h⟩ := s.detectorTick_frame t; rw [h]; rfl

/-- The capture half of the microsecond step: the counter, the sample and the detector (R110). -/
def State.captureStep (s : State) (lvl : Bool) : State :=
  let s' := s.counterUpdate.sampleInput lvl
  if s.tickFires then s'.detectorTick s'.tb.now else s'

/-- The microsecond step is its capture half and then the engine's step, at the new time (R110). -/
theorem State.microsecondStep_eq (s : State) (lvl : Bool) :
    s.microsecondStep lvl = (s.captureStep lvl).txStep (s.tb.now + 1) := by
  have h : (s.captureStep lvl).tb.now = s.tb.now + 1 := by
    unfold State.captureStep
    obtain ⟨c, a, b, h⟩ := s.counterUpdate.sampleInput_frame lvl
    obtain ⟨c', h'⟩ := (s.counterUpdate.sampleInput lvl).detectorTick_frame
      (s.counterUpdate.sampleInput lvl).tb.now
    dsimp only
    split
    · rw [h', h]; rfl
    · rw [h]; rfl
  rw [← h]
  rfl

/-- The input sample as the edge event of the same state, with the level recorded (R112, R113). -/
theorem State.sampleInput_eq (s : State) (lvl : Bool) :
    s.sampleInput lvl = { (if lvl = s.tb.inPrev then s else s.edgeEvent s.tb.now lvl) with
      tb := { s.tb with inPrev := lvl } } := by
  unfold State.sampleInput
  split
  · next h => subst h; rfl
  · exact State.edgeEvent_withTb s _ _ _

/-- What the capture half does to the session: the edge event and then the detector (R110). -/
theorem State.captureStep_cap (s : State) (lvl : Bool) :
    (s.captureStep lvl).cap =
      let u := if lvl = s.tb.inPrev then s else s.edgeEvent (s.tb.now + 1) lvl
      if s.tickFires then (u.detectorTick (s.tb.now + 1)).cap else u.cap := by
  have det : ∀ (u : State) (x : TimeBase) (t : Word),
      (({ u with tb := x } : State).detectorTick t).cap = (u.detectorTick t).cap := by
    intro u x t
    unfold State.detectorTick
    dsimp only
    split <;> rfl
  have edge : s.counterUpdate.sampleInput lvl = { (if lvl = s.tb.inPrev then s
      else s.edgeEvent (s.tb.now + 1) lvl) with tb := { s.counterUpdate.tb with inPrev := lvl } } := by
    rw [State.sampleInput_eq]
    by_cases h : lvl = s.tb.inPrev
    · rw [if_pos (by exact h), if_pos h]; rfl
    · rw [if_neg (by exact h), if_neg h, show s.counterUpdate.edgeEvent s.counterUpdate.tb.now lvl = _ from
        State.edgeEvent_withTb s s.counterUpdate.tb _ lvl]; rfl
  unfold State.captureStep
  dsimp only
  rw [edge]
  split
  · rw [det]; rfl
  · rfl

/-- The capture half changes the time base, the capture session, LONG and LOST, and nothing else. -/
theorem State.captureStep_frame (s : State) (lvl : Bool) :
    ∃ cap long lost, s.captureStep lvl = { s with
      tb := { s.counterUpdate.tb with inPrev := lvl }
      cap := cap, host := { s.host with long := long, lost := lost } } := by
  unfold State.captureStep
  obtain ⟨c, a, b, h⟩ := s.counterUpdate.sampleInput_frame lvl
  obtain ⟨c', h'⟩ := (s.counterUpdate.sampleInput lvl).detectorTick_frame
    (s.counterUpdate.sampleInput lvl).tb.now
  dsimp only
  split
  · rw [h', h]; exact ⟨c', a, b, rfl⟩
  · rw [h]; exact ⟨c, a, b, rfl⟩

@[simp] theorem State.captureStep_cfg (s : State) (lvl : Bool) : (s.captureStep lvl).cfg = s.cfg := by
  obtain ⟨_, _, _, h⟩ := s.captureStep_frame lvl; rw [h]
@[simp] theorem State.captureStep_bank (s : State) (lvl : Bool) : (s.captureStep lvl).bank = s.bank := by
  obtain ⟨_, _, _, h⟩ := s.captureStep_frame lvl; rw [h]
@[simp] theorem State.captureStep_tx (s : State) (lvl : Bool) : (s.captureStep lvl).tx = s.tx := by
  obtain ⟨_, _, _, h⟩ := s.captureStep_frame lvl; rw [h]
@[simp] theorem State.captureStep_env (s : State) (lvl : Bool) : (s.captureStep lvl).env = s.env := by
  obtain ⟨_, _, _, h⟩ := s.captureStep_frame lvl; rw [h]
@[simp] theorem State.captureStep_now (s : State) (lvl : Bool) : (s.captureStep lvl).tb.now = s.tb.now + 1 := by
  obtain ⟨_, _, _, h⟩ := s.captureStep_frame lvl; rw [h]; rfl

end Sys2Proof.Machine
end

