-- ==== Sys2Proof/Laws/Operands.lean ====
section
/-! SUPPORT. The operand forms as numbers: what each field of a data word or of a command word is. -/

namespace Sys2Proof.Machine

/-- `wdata[15:0]` is the low half of the word. -/
theorem low16_eq (w : Word) : low16 w = w.setWidth 16 :=
  BitVec.eq_of_toNat_eq (by simp [low16, BitVec.extractLsb'])

/-- `wdata[7:0]` is the low byte of the word. -/
theorem low8_eq (w : Word) : low8 w = w.setWidth 8 :=
  BitVec.eq_of_toNat_eq (by simp [low8, BitVec.extractLsb'])

/-- A word that fits 16 bits is its low half. -/
theorem low16_toNat (w : Word) (h : w.toNat < 65536) : (low16 w).toNat = w.toNat := by
  simp [low16, BitVec.extractLsb']
  omega

/-- `wdata[31:16]` is 0 exactly where the word fits 16 bits. -/
theorem high16_eq_zero (w : Word) : high16 w = 0 ↔ w.toNat < 65536 := by
  rw [← BitVec.toNat_inj]
  have := w.isLt
  simp [high16, BitVec.extractLsb', Nat.shiftRight_eq_div_pow]
  omega

/-- Widening an entry keeps its number. -/
theorem zext32_toNat (v : Entry) : (zext32 v).toNat = v.toNat := by
  have := v.isLt
  simp [zext32]
  omega

/-- A duration that fits 16 bits is stored whole. -/
theorem durationEntry_toNat (d : Nat) (h : d < 65536) : (durationEntry d).toNat = d := by
  simp [durationEntry]
  omega

/-- The half-period as a number (R180). -/
theorem halfPeriod_toNat (c : Word) : (halfPeriod c).toNat = 1000000 / (2 * c.toNat) := by
  have := Nat.div_le_self 1000000 (2 * c.toNat)
  simp [halfPeriod]
  omega

/-- RSV of a command word as a number (R82). -/
theorem commandRsv_toNat (w : Word) : (commandRsv w).toNat = w.toNat / 65536 := by
  have := w.isLt
  simp [commandRsv, BitVec.extractLsb', Nat.shiftRight_eq_div_pow]
  omega

/-- ARG of a command word as a number (R82). -/
theorem commandArg_toNat (w : Word) : (commandArg w).toNat = w.toNat / 256 % 256 := by
  simp [commandArg, BitVec.extractLsb', Nat.shiftRight_eq_div_pow]

/-- OP of a command word as a number (R82). -/
theorem commandOp_toNat (w : Word) : (commandOp w).toNat = w.toNat % 256 := by
  simp [commandOp, BitVec.extractLsb']

/-- A time that lies ahead is one microsecond nearer after a microsecond. -/
theorem elapsed_succ (x t : Word) (h : 1 ≤ elapsed x t) : elapsed x (t + 1) + 1 = elapsed x t := by
  unfold elapsed at *
  bv_omega

end Sys2Proof.Machine
end

