-- ==== Sys2Proof/Laws/Exec.lean ====
section
/-! SUPPORT. Everything an instruction and a step can do, said once. -/

namespace Sys2Proof.Machine

@[simp] theorem State.setInputs_cfg (s : State) (l : List Input) : (s.setInputs l).cfg = s.cfg := rfl
@[simp] theorem State.setInputs_tb (s : State) (l : List Input) : (s.setInputs l).tb = s.tb := rfl
@[simp] theorem State.setInputs_cap (s : State) (l : List Input) : (s.setInputs l).cap = s.cap := rfl
@[simp] theorem State.setInputs_bank (s : State) (l : List Input) : (s.setInputs l).bank = s.bank := rfl
@[simp] theorem State.setInputs_tx (s : State) (l : List Input) : (s.setInputs l).tx = s.tx := rfl
@[simp] theorem State.setInputs_host (s : State) (l : List Input) : (s.setInputs l).host = s.host := rfl
@[simp] theorem State.setInputs_rst (s : State) (l : List Input) : (s.setInputs l).env.rst = s.env.rst := rfl
@[simp] theorem State.setInputs_epoch (s : State) (l : List Input) : (s.setInputs l).env.epoch = s.env.epoch := rfl
@[simp] theorem State.setInputs_inputs (s : State) (l : List Input) : (s.setInputs l).env.inputs = l := rfl

/-- The effects an accepted instruction can have on the state, one for each shape of instruction. -/
inductive Effect (s : State) : State → Prop
  /-- A read returns a value (R65, R210). -/
  | read (v : Word) : Effect s (s.respond v)
  /-- NOP (R218). -/
  | nothing : Effect s s
  /-- WR_STATUS (R215). -/
  | clear (w : Word) : Effect s (s.clearSticky w)
  /-- WR_IRQ_EN (R216). -/
  | irqEn (w : Word) : Effect s (s.setHost { s.host with irqEn := w &&& irqEnMask })
  /-- WR_CAP_INDEX, WR_BANK_SEL, WR_BANK_INDEX (R136, R166). -/
  | pointers (ci : Entry) (bs : SlotNo) (bi : Entry) :
      Effect s (s.setHost { s.host with capIndex := ci, bankSel := bs, bankIndex := bi })
  /-- WR_TX_CARRIER_HZ, WR_TX_INDEX (R190, R192). -/
  | txPointers (c : Word) (i : Entry) : Effect s (s.setTx { s.tx with carrier := c, index := i })
  /-- WR_TX_COUNT, accepted (R191). -/
  | txCount (w : Word) (hb : s.tx.busy = false) (hw : w.toNat ≤ s.cfg.capacity) :
      Effect s (s.setTx { s.tx with count := low16 w })
  /-- WR_TX_DATA, accepted (R193). -/
  | txData (w : Word) (hb : s.tx.busy = false) (hi : s.tx.index.toNat < s.cfg.capacity) (hw : high16 w = 0) :
      Effect s (s.setTx { s.tx with buf := s.tx.buf.write s.tx.index.toNat (low16 w), index := s.tx.index + 1 })
  /-- A refused write of TX_COUNT or TX_DATA (R240). -/
  | accErr : Effect s s.raiseAccErr
  /-- A refused command (R240). -/
  | cmdErr : Effect s s.raiseCmdErr
  /-- START (R131). -/
  | start : Effect s (cmdStart s)
  /-- STOP (R132). -/
  | stop : Effect s (cmdStop s)
  /-- RESET (R133). -/
  | reset : Effect s (cmdReset s)
  /-- COLLECT (R162). -/
  | collect : Effect s (cmdCollect s)
  /-- TX_BANK or TX_BUF, accepted (R180). -/
  | transmit (useBuf : Bool) (slot : SlotNo) (h : s.txStartRefused useBuf slot = false) :
      Effect s (txStart useBuf slot s)

/-- A transmit command is an accepted start or a refused command. -/
theorem txStart_effect (useBuf : Bool) (slot : SlotNo) (s : State) : Effect s (txStart useBuf slot s) := by
  cases h : s.txStartRefused useBuf slot with
  | false => exact .transmit useBuf slot h
  | true => rw [txStart_refused _ _ _ h]; exact .cmdErr

/-- A CMD write has the effect of its command, or is refused (R217). -/
theorem runCommand_effect (w : Word) (s : State) : Effect s (runCommand w s) := by
  unfold runCommand
  split
  · exact .cmdErr
  · split
    · exact .nothing
    · exact .start
    · exact .stop
    · exact .reset
    · exact .collect
    · exact txStart_effect _ _ _
    · exact txStart_effect _ _ _

/-- Every instruction completes, with one of these effects. -/
theorem exec_effect (i : Instr) (s : State) : ∃ t, exec i s = .next t ∧ Effect s t := by
  cases i with
  | wrStatus w => exact ⟨_, rfl, .clear w⟩
  | wrIrqEn w => exact ⟨_, rfl, .irqEn w⟩
  | wrCmd w => exact ⟨_, rfl, runCommand_effect w s⟩
  | wrCapIndex w => exact ⟨_, rfl, .pointers _ _ _⟩
  | wrBankSel w => exact ⟨_, rfl, .pointers _ _ _⟩
  | wrBankIndex w => exact ⟨_, rfl, .pointers _ _ _⟩
  | wrTxCarrierHz w => exact ⟨_, rfl, .txPointers _ _⟩
  | wrTxIndex w => exact ⟨_, rfl, .txPointers _ _⟩
  | wrTxCount w =>
    refine ⟨_, rfl, ?_⟩
    split
    · exact .accErr
    · next h => simp only [not_or, Bool.not_eq_true, not_lt] at h; exact .txCount w h.1 h.2
  | wrTxData w =>
    refine ⟨_, rfl, ?_⟩
    split
    · exact .accErr
    · next h =>
      simp only [not_or, Bool.not_eq_true, not_le, not_not] at h
      exact .txData w h.1 h.2.1 h.2.2
  | nop => exact ⟨_, rfl, .nothing⟩
  | start => exact ⟨_, rfl, .start⟩
  | stop => exact ⟨_, rfl, .stop⟩
  | reset => exact ⟨_, rfl, .reset⟩
  | collect => exact ⟨_, rfl, .collect⟩
  | txBank slot => exact ⟨_, rfl, txStart_effect _ _ _⟩
  | txBuf => exact ⟨_, rfl, txStart_effect _ _ _⟩
  | _ => exact ⟨_, rfl, .read _⟩

/-- The effect of an instruction that answers a next state. -/
theorem effect_of_exec {i : Instr} {s t : State} (h : exec i s = .next t) : Effect s t := by
  obtain ⟨u, hu, he⟩ := exec_effect i s
  rw [hu] at h
  cases h
  exact he

/-- No instruction changes the parameters, the time base, the level of `rst` or the reset count (R211, R221). -/
theorem Effect.frame {s t : State} (h : Effect s t) :
    t.cfg = s.cfg ∧ t.tb = s.tb ∧ t.env.rst = s.env.rst ∧ t.env.epoch = s.env.epoch := by
  cases h with
  | transmit u k hr =>
    obtain ⟨_, _, _, _, _, _, _, hf⟩ := txStart_frame u k s hr
    rw [hf]
    exact ⟨rfl, rfl, rfl, rfl⟩
  | collect =>
    rcases cmdCollect_cases s with ⟨_, e⟩ | ⟨_, _, e⟩ | ⟨_, _, _, e⟩ | ⟨_, _, _, e⟩ <;> rw [e] <;>
      exact ⟨rfl, rfl, rfl, rfl⟩
  | _ => exact ⟨rfl, rfl, rfl, rfl⟩

/-- Everything a level of `rst` can do (R260, R261). -/
theorem State.driveRst_cases (s : State) (level : Bool) :
    (level = true ∧ s.driveRst level =
      s.hardwareReset.setEnv { s.env with rst := true, epoch := s.env.epoch + 1 }) ∨
    (level = false ∧ s.env.rst = true ∧ s.driveRst level = s.hardwareReset.setEnv { s.env with rst := false }) ∨
    (level = false ∧ s.env.rst = false ∧ s.driveRst level = s) := by
  unfold State.driveRst
  cases level <;> cases s.env.rst <;> simp

/-- A refused access sets ACC_ERR, and returns 0 where it is a read (R242). -/
theorem State.refuseAccess_eq (s : State) (write : Bool) :
    s.refuseAccess write = { s with
      host := { s.host with accErr := true }
      env := { s.env with rdata := if write then s.env.rdata else 0 } } := by
  cases write <;> rfl

/-- Everything a step can do when it answers a next state: one case for each kind of event. -/
theorem step_cases {s t : State} (h : step s = .next t) :
    (s.env.inputs = [] ∧ t = freeMicrosecond s) ∨
    (∃ lvl rest, s.env.inputs = .microsecond lvl :: rest ∧ t = (s.setInputs rest).passMicrosecond lvl) ∨
    (∃ level rest, s.env.inputs = .rstLevel level :: rest ∧ t = (s.setInputs rest).driveRst level) ∨
    (∃ a rest offset, s.env.inputs = .access a :: rest ∧ windowOffset s.cfg.base a.addr = some offset ∧
      s.env.rst = true ∧ t = if a.write then s.setInputs rest else (s.setInputs rest).respond 0) ∨
    (∃ a rest offset e, s.env.inputs = .access a :: rest ∧ windowOffset s.cfg.base a.addr = some offset ∧
      s.env.rst = false ∧ decodeAccess a.write offset a.size a.wdata = .error e ∧
      t = (s.setInputs rest).refuseAccess a.write) ∨
    (∃ a rest offset i, s.env.inputs = .access a :: rest ∧ windowOffset s.cfg.base a.addr = some offset ∧
      s.env.rst = false ∧ decodeAccess a.write offset a.size a.wdata = .ok i ∧
      exec i (s.setInputs rest) = .next t) := by
  unfold step nextEvent at h
  split at h
  · next hi => cases h; exact .inl ⟨hi, rfl⟩
  · next x rest hi =>
    cases x with
    | microsecond lvl => cases h; exact .inr (.inl ⟨lvl, rest, hi, rfl⟩)
    | rstLevel level => cases h; exact .inr (.inr (.inl ⟨level, rest, hi, rfl⟩))
    | access a =>
      simp only [runInput, busAccess] at h
      split at h
      · next offset hw =>
        unfold accessAt at h
        split at h
        · next hr =>
          cases h
          exact .inr (.inr (.inr (.inl ⟨a, rest, offset, hi, hw, hr, rfl⟩)))
        · next hr =>
          have hr' : s.env.rst = false := by simpa using hr
          split at h
          · next i hd => exact .inr (.inr (.inr (.inr (.inr ⟨a, rest, offset, i, hi, hw, hr', hd, h⟩))))
          · next e hd =>
            cases h
            exact .inr (.inr (.inr (.inr (.inl ⟨a, rest, offset, e, hi, hw, hr', hd, rfl⟩))))
      · cases h

/-- An address at an offset of the window is at that offset (R60, R210). -/
theorem windowOffset_of_offset (base : Nat) (offset : BitVec 8) :
    windowOffset base (base + offset.toNat) = some offset := by
  have := offset.isLt
  unfold windowOffset
  rw [if_pos (by omega), show base + offset.toNat - base = offset.toNat by omega]
  simp

/-- A microsecond passes as a microsecond step unless `rst` is asserted. -/
theorem State.passMicrosecond_frame (s : State) (lvl : Bool) :
    s.passMicrosecond lvl = if s.env.rst then s else (s.captureStep lvl).txStep (s.tb.now + 1) := by
  unfold State.passMicrosecond
  rw [State.microsecondStep_eq]

end Sys2Proof.Machine
end

