-- ==== Sys2Proof/Laws/PerInstr.lean ====
section
/-! SUPPORT. A statement about every instruction as syntax, instruction by instruction: its encoding is an item that the
spec does not call illegal (spec/30_encoding.md R84 to R87). -/

namespace Sys2Proof.Laws.EncodesWellFormed

/-- The encoding of an instruction is a well-formed item. -/
def Statement (i : Instr) : Prop := itemWellFormed (encode i) = true

theorem rdStatus : Statement .rdStatus := rfl
theorem wrStatus (wdata : Word) : Statement (.wrStatus wdata) := rfl
theorem rdIrqEn : Statement .rdIrqEn := rfl
theorem wrIrqEn (wdata : Word) : Statement (.wrIrqEn wdata) := rfl
theorem wrCmd (wdata : Word) : Statement (.wrCmd wdata) := rfl
theorem rdTime : Statement .rdTime := rfl
theorem rdCapCount : Statement .rdCapCount := rfl
theorem rdCapTotalMs : Statement .rdCapTotalMs := rfl
theorem rdCapIndex : Statement .rdCapIndex := rfl
theorem wrCapIndex (wdata : Word) : Statement (.wrCapIndex wdata) := rfl
theorem rdCapData : Statement .rdCapData := rfl
theorem rdLastEdgeTs : Statement .rdLastEdgeTs := rfl
theorem rdLastDebounceTs : Statement .rdLastDebounceTs := rfl
theorem rdSessionStartTs : Statement .rdSessionStartTs := rfl
theorem rdBankSize : Statement .rdBankSize := rfl
theorem rdBankSel : Statement .rdBankSel := rfl
theorem wrBankSel (wdata : Word) : Statement (.wrBankSel wdata) := rfl
theorem rdBankCount : Statement .rdBankCount := rfl
theorem rdBankTotalMs : Statement .rdBankTotalMs := rfl
theorem rdBankLabel : Statement .rdBankLabel := rfl
theorem rdBankIndex : Statement .rdBankIndex := rfl
theorem wrBankIndex (wdata : Word) : Statement (.wrBankIndex wdata) := rfl
theorem rdBankData : Statement .rdBankData := rfl
theorem rdTxCarrierHz : Statement .rdTxCarrierHz := rfl
theorem wrTxCarrierHz (wdata : Word) : Statement (.wrTxCarrierHz wdata) := rfl
theorem rdTxCount : Statement .rdTxCount := rfl
theorem wrTxCount (wdata : Word) : Statement (.wrTxCount wdata) := rfl
theorem rdTxIndex : Statement .rdTxIndex := rfl
theorem wrTxIndex (wdata : Word) : Statement (.wrTxIndex wdata) := rfl
theorem rdTxData : Statement .rdTxData := rfl
theorem wrTxData (wdata : Word) : Statement (.wrTxData wdata) := rfl
theorem rdTxSeg : Statement .rdTxSeg := rfl
theorem rdTxHalfUs : Statement .rdTxHalfUs := rfl
theorem rdParamCapacity : Statement .rdParamCapacity := rfl
theorem rdParamBankCap : Statement .rdParamBankCap := rfl
theorem rdParamMinValidCount : Statement .rdParamMinValidCount := rfl
theorem rdParamDebounceUs : Statement .rdParamDebounceUs := rfl
theorem rdParamMinPulseUs : Statement .rdParamMinPulseUs := rfl
theorem rdParamMaxPulseUs : Statement .rdParamMaxPulseUs := rfl
theorem rdParamSilenceGapUs : Statement .rdParamSilenceGapUs := rfl
theorem rdParamTickPeriodUs : Statement .rdParamTickPeriodUs := rfl
theorem nop : Statement .nop := rfl
theorem start : Statement .start := rfl
theorem stop : Statement .stop := rfl
theorem reset : Statement .reset := rfl
theorem collect : Statement .collect := rfl
theorem txBank (slot : SlotNo) : Statement (.txBank slot) := by
  show itemWellFormed (encode (.txBank slot)) = true
  revert slot
  decide
theorem txBuf : Statement .txBuf := rfl

end Sys2Proof.Laws.EncodesWellFormed
end

