-- ==== Sys2Proof/Tests/Slice0.lean ====
section
/-! SUPPORT. Tests of the model: what the checks of WellFormed refuse, the words of spec/30_encoding.md decoded, the vectors
of spec/95_test_vectors.md (named by their ids), and a state that meets the hypotheses of each obligation. -/

open Sys2Proof Sys2Proof.Machine Sys2Proof.Claims

namespace Sys2Proof.Tests

/-! ### Ill-formed items are refused (WellFormed) -/

/-- Offset 0x02 (R81). -/
theorem test_wf_misaligned : codeAligned 0x002 = false ∧ codeWellFormed 0x002 = false := by decide
/-- Offset 0x80 (R84). -/
theorem test_wf_reserved_offset : codeInRegisters 0x080 = false ∧ codeWellFormed 0x080 = false := by decide
/-- A read of CMD and a write of TIME (R84). -/
theorem test_wf_direction : codeDirectionAllowed 0x008 = false ∧ codeDirectionAllowed 0x10C = false := by decide
/-- OP 0x07 (R86). -/
theorem test_wf_op : commandOpKnown 0x00000007 = false ∧ commandWellFormed 0x00000007 = false := by decide
/-- COLLECT with ARG 1 (R86). -/
theorem test_wf_arg : commandArgAllowed 0x00000104 = false ∧ commandWellFormed 0x00000104 = false := by decide
/-- START with RSV 1 (R86). -/
theorem test_wf_rsv : commandRsvZero 0x00010001 = false ∧ commandWellFormed 0x00010001 = false := by decide
/-- An item of either format that is refused (R80). -/
theorem test_wf_item : itemWellFormed (.bus 0x10C 5) = false ∧ itemWellFormed (.cmd 0x00000007) = false := by decide
/-- An address one past the window (R60). -/
theorem test_wf_window : inWindow 0 ⟨false, 0x100, 4, 0⟩ = false := by decide
/-- A 16-bit access (R63). -/
theorem test_wf_size : sizeAccepted ⟨false, 0, 2, 0⟩ = false := by decide

/-! ### The words of the encoding tables (R84, R85) -/

/-- Every read of R84, its access code as the table writes it. -/
theorem test_decode_reads :
    [0x000, 0x004, 0x00C, 0x010, 0x014, 0x018, 0x01C, 0x020, 0x024, 0x028, 0x02C, 0x030, 0x034, 0x038, 0x03C, 0x040,
      0x044, 0x048, 0x04C, 0x050, 0x054, 0x058, 0x05C, 0x060, 0x064, 0x068, 0x06C, 0x070, 0x074, 0x078, 0x07C].map
        (decodeTableWord 16) =
    [.rdStatus, .rdIrqEn, .rdTime, .rdCapCount, .rdCapTotalMs, .rdCapIndex, .rdCapData, .rdLastEdgeTs,
      .rdLastDebounceTs, .rdSessionStartTs, .rdBankSize, .rdBankSel, .rdBankCount, .rdBankTotalMs, .rdBankLabel,
      .rdBankIndex, .rdBankData, .rdTxCarrierHz, .rdTxCount, .rdTxIndex, .rdTxData, .rdTxSeg, .rdTxHalfUs,
      .rdParamCapacity, .rdParamBankCap, .rdParamMinValidCount, .rdParamDebounceUs, .rdParamMinPulseUs,
      .rdParamMaxPulseUs, .rdParamSilenceGapUs, .rdParamTickPeriodUs].map some := by decide

/-- Every write of R84, its access code as the table writes it with `wdata` 0x12345678 above it. -/
theorem test_decode_writes :
    [0x123456780100, 0x123456780104, 0x123456780108, 0x123456780118, 0x123456780130, 0x123456780140, 0x123456780148,
      0x12345678014C, 0x123456780150, 0x123456780154].map (decodeTableWord 48) =
    [Instr.wrStatus 0x12345678, .wrIrqEn 0x12345678, .wrCmd 0x12345678, .wrCapIndex 0x12345678, .wrBankSel 0x12345678,
      .wrBankIndex 0x12345678, .wrTxCarrierHz 0x12345678, .wrTxCount 0x12345678, .wrTxIndex 0x12345678,
      .wrTxData 0x12345678].map some := by decide

/-- Every command word of R85. -/
theorem test_decode_commands :
    [0x00000000, 0x00000001, 0x00000002, 0x00000003, 0x00000004, 0x00000405, 0x00000006].map (decodeTableWord 32) =
    [Instr.nop, .start, .stop, .reset, .collect, .txBank 4, .txBuf].map some := by decide

/-- One word of each family, bit by bit: W, then the offset; or RSV, ARG, OP (R81, R82). -/
theorem test_decode_bits :
    decodeTableWord 16 0b0000000_0_00001100 = some .rdTime ∧
    decodeTableWord 16 0b0000000_0_00011100 = some .rdCapData ∧
    decodeTableWord 16 0b0000000_0_00111100 = some .rdBankLabel ∧
    decodeTableWord 48 0b00000000000000001001110001000000_0000000_1_01001000 = some (.wrTxCarrierHz 40000) ∧
    decodeTableWord 32 0b0000000000000000_00000010_00000101 = some (.txBank 2) := by decide

/-- The codes and words that R86 and R87 refuse decode to nothing. -/
theorem test_decode_refused :
    [0x001, 0x002, 0x008, 0x080, 0x0FC, 0x10C, 0x17C, 0x200].map (decodeTableWord 16) = List.replicate 8 none ∧
    [0x00000007, 0x00000104, 0x00010001, 0x000000FF].map (decodeTableWord 32) = List.replicate 4 none := by decide

/-! ### Small states -/

/-- What a field holds after an instruction. -/
def after (i : Instr) (s : State) (f : State → α) : Option α :=
  match exec i s with
  | .next t => some (f t)
  | _ => none

/-- What a read returns. -/
def readBy (i : Instr) (s : State) : Option Word := after i s (·.env.rdata)

/-- What a field holds after a step. -/
def afterStep (s : State) (f : State → α) : Option α :=
  match step s with
  | .next t => some (f t)
  | _ => none

/-- An outcome is a next state. -/
def goesOn (o : Host.Outcome State Fault Refusal) : Bool :=
  match o with
  | .next _ => true
  | _ => false

theorem next_of_goesOn {o : Host.Outcome State Fault Refusal} (h : goesOn o = true) : ∃ t, o = .next t := by
  cases o with
  | next t => exact ⟨t, rfl⟩
  | fault _ => cases h
  | refused _ => cases h

/-- Right after reset, with something for the environment to do. -/
def doing (x : Input) : State := State.reset.setInputs [x]

/-- A host access. -/
def rd (offset : Nat) : Input := .access ⟨false, offset, 4, 0⟩
/-- A host access. -/
def wr (offset : Nat) (wdata : Word) : Input := .access ⟨true, offset, 4, wdata⟩

/-- The durations of scenario B (95_test_vectors.md 1.9). -/
def scenarioB : List Entry :=
  [420, 350, 440, 1330, 420, 350, 440, 1330, 420, 350, 440, 1330, 420, 350, 440, 1330, 420, 350, 440]

/-- Program P1 at 25000, before COLLECT. -/
def p1 : State :=
  (State.reset.setTb ⟨25000, 0, true⟩).setCap
    { State.reset.cap with
      capEn := true, ready := true, complete := true, count := 19, totalMs := 24, lastEdge := 12370, lastDb := 12370
      sessionStart := 1000, buf := (List.range 19).zip scenarioB }

/-- Program P1 after COLLECT. -/
def p1Stored : State := cmdCollect p1

/-- Capturing since `now - 1000`, the last accepted edge `silence` µs ago, with `n` entries. -/
def capturingFor (silence : Word) (n : Entry) : State :=
  (State.reset.setTb ⟨20000, 0, false⟩).setCap
    { State.reset.cap with
      capEn := true, capturing := true, count := n, lastEdge := 20000 - silence, lastDb := 20000 - silence
      lastLevel := false, sessionStart := 19000 }

/-- `load_tx` of X1's sequence at time 100. -/
def loaded (durations : List Entry) : State :=
  (State.reset.setTb ⟨100, 100, true⟩).setTx
    { State.reset.tx with
      count := BitVec.ofNat 16 durations.length, buf := (List.range durations.length).zip durations }

/-- After X1's start: a mark of 26 µs with h = 13, at time 100. -/
def playing : State := txStart true 0 (loaded [26, 20, 14])

/-! ### Instructions (95_test_vectors.md) -/

/-- H1. -/
theorem test_rdStatus : readBy .rdStatus State.reset = some 0x000000C0 := by decide
/-- P1 at 25000, and P1 after COLLECT. -/
theorem test_rdStatus_p1 : readBy .rdStatus p1 = some 0x000000CE ∧ readBy .rdStatus p1Stored = some 0x000001C8 := by
  decide
/-- H7: LONG and CMD_ERR, `clr 0x00010000`. -/
theorem test_wrStatus_clears_one :
    after (.wrStatus 0x00010000) (State.reset.setHost { State.reset.host with long := true, cmdErr := true })
      (·.statusWord) = some 0x000800C0 := by decide
/-- H8. -/
theorem test_wrStatus_clears_all :
    after (.wrStatus 0xFFFFFFFF) (State.reset.setHost ⟨true, true, true, true, true, 0, 0, 0, 0⟩)
      (·.statusWord) = some 0x000000C0 := by decide
/-- H9. -/
theorem test_wrIrqEn : after (.wrIrqEn 0xFFFFFFFF) State.reset (·.host.irqEn) = some 0x001F0002 := by decide
/-- H9. -/
theorem test_rdIrqEn :
    readBy .rdIrqEn (State.reset.setHost { State.reset.host with irqEn := 0x001F0002 }) = some 0x001F0002 := by decide
/-- H10, H11. -/
theorem test_wrCmd_illegal :
    after (.wrCmd 0x00000104) State.reset (·.statusWord) = some 0x000800C0 ∧
    after (.wrCmd 0x00010001) State.reset (fun t => (t.cap.capEn, t.host.cmdErr)) = some (false, true) := by decide
/-- R214: STATUS after `cmd START`. -/
theorem test_wrCmd_start : after (.wrCmd 0x00000001) State.reset (·.statusWord) = some 0x000000C8 := by decide
/-- H15. -/
theorem test_rdTime : readBy .rdTime (State.reset.setTb ⟨1000, 1000, true⟩) = some 1000 := by decide
/-- P1. -/
theorem test_rdCapCount : readBy .rdCapCount p1 = some 19 := by decide
/-- P1. -/
theorem test_rdCapTotalMs : readBy .rdCapTotalMs p1 = some 24 := by decide
/-- E14. -/
theorem test_capIndex :
    after (.wrCapIndex 0x00012345) State.reset (·.host.capIndex) = some 0x2345 ∧
    readBy .rdCapIndex (State.reset.setHost { State.reset.host with capIndex := 0x2345 }) = some 0x00002345 := by decide
/-- E13. -/
theorem test_rdCapData : readBy .rdCapData (p1.setHost { p1.host with capIndex := 3 }) = some 1330 := by decide
/-- E14: an index at the count. -/
theorem test_rdCapData_masked : readBy .rdCapData (p1.setHost { p1.host with capIndex := 19 }) = some 0 := by decide
/-- P1. -/
theorem test_timestamps :
    readBy .rdLastEdgeTs p1 = some 12370 ∧ readBy .rdLastDebounceTs p1 = some 12370 ∧
    readBy .rdSessionStartTs p1 = some 1000 := by decide
/-- P1 after COLLECT. -/
theorem test_rdBankSize : readBy .rdBankSize p1Stored = some 1 := by decide
/-- B8. -/
theorem test_bankSel :
    after (.wrBankSel 0x1FF) State.reset (·.host.bankSel) = some 0xFF ∧
    readBy .rdBankSel (State.reset.setHost { State.reset.host with bankSel := 0xFF }) = some 0x000000FF := by decide
/-- P1: slot 0. -/
theorem test_bankSlot :
    readBy .rdBankCount p1Stored = some 19 ∧ readBy .rdBankTotalMs p1Stored = some 24 ∧
    readBy .rdBankLabel p1Stored = some 0 := by decide
/-- B5: slot 1 is not filled. -/
theorem test_bankSlot_empty :
    let s := p1Stored.setHost { p1Stored.host with bankSel := 1 }
    readBy .rdBankCount s = some 0 ∧ readBy .rdBankTotalMs s = some 0 ∧ readBy .rdBankLabel s = some 0 := by decide
/-- R166. -/
theorem test_bankIndex :
    after (.wrBankIndex 0xFFFF0012) State.reset (·.host.bankIndex) = some 18 ∧
    readBy .rdBankIndex (State.reset.setHost { State.reset.host with bankIndex := 18 }) = some 18 := by decide
/-- B6, B7. -/
theorem test_rdBankData :
    readBy .rdBankData (p1Stored.setHost { p1Stored.host with bankIndex := 18 }) = some 440 ∧
    readBy .rdBankData (p1Stored.setHost { p1Stored.host with bankIndex := 19 }) = some 0 := by decide
/-- R190. -/
theorem test_txCarrier :
    readBy .rdTxCarrierHz State.reset = some 38000 ∧
    after (.wrTxCarrierHz 0xFFFFFFFF) playing (fun t => (t.tx.carrier, t.tx.half)) = some (0xFFFFFFFF, 13) := by decide
/-- X16, X17. -/
theorem test_wrTxCount :
    after (.wrTxCount 1025) State.reset (fun t => (t.tx.count, t.host.accErr)) = some (0, true) ∧
    after (.wrTxCount 1024) State.reset (fun t => (t.tx.count, t.host.accErr)) = some (1024, false) := by decide
/-- X20. -/
theorem test_tx_writes_busy :
    after (.wrTxCount 1) playing (fun t => (t.tx.count, t.host.accErr)) = some (3, true) ∧
    after (.wrTxData 5) playing (fun t => (t.tx.index, t.host.accErr)) = some (0, true) := by decide
/-- R191. -/
theorem test_rdTxCount : readBy .rdTxCount playing = some 3 := by decide
/-- R192. -/
theorem test_txIndex :
    after (.wrTxIndex 0x000103FF) State.reset (·.tx.index) = some 1023 ∧
    readBy .rdTxIndex (State.reset.setTx { State.reset.tx with index := 1023 }) = some 1023 := by decide
/-- X18: the last entry, and one past it. -/
theorem test_wrTxData :
    after (.wrTxData 7) (State.reset.setTx { State.reset.tx with index := 1023 })
      (fun t => (t.tx.buf, t.tx.index)) = some ([(1023, 7)], 1024) ∧
    after (.wrTxData 8) (State.reset.setTx { State.reset.tx with index := 1024 })
      (fun t => (t.tx.buf, t.tx.index, t.host.accErr)) = some ([], 1024, true) := by decide
/-- X19: a value above 16 bits; and R193: a read past the buffer. -/
theorem test_txData_refused :
    after (.wrTxData 0x00010000) State.reset (fun t => (t.tx.index, t.host.accErr)) = some (0, true) ∧
    readBy .rdTxData (State.reset.setTx { State.reset.tx with index := 1024 }) = some 0 ∧
    readBy .rdTxData ((loaded [26, 20, 14]).setTx { (loaded [26, 20, 14]).tx with index := 1 }) = some 20 := by decide
/-- X22. -/
theorem test_txPosition :
    readBy .rdTxSeg (playing.setTx { playing.tx with idx := 3 }) = some 3 ∧ readBy .rdTxHalfUs playing = some 13 := by
  decide
/-- H14. -/
theorem test_params :
    [Instr.rdParamCapacity, .rdParamBankCap, .rdParamMinValidCount, .rdParamDebounceUs, .rdParamMinPulseUs,
      .rdParamMaxPulseUs, .rdParamSilenceGapUs, .rdParamTickPeriodUs].map (readBy · State.reset) =
    [1024, 5, 10, 20, 20, 10000, 10000, 5000].map some := by decide
/-- H13. -/
theorem test_nop : after .nop p1 id = some p1 := by decide
/-- E9: START while capturing. -/
theorem test_start :
    after .start (capturingFor 100 5) (fun t => (t.cap.capEn, t.cap.capturing, t.cap.count)) = some (true, false, 0) := by
  decide
/-- R132: STOP keeps the session. -/
theorem test_stop :
    after .stop (capturingFor 100 15) (fun t => (t.cap.capEn, t.cap.capturing, t.cap.count)) =
      some (false, true, 15) := by decide
/-- E8. -/
theorem test_reset :
    after .reset (capturingFor 100 15) (fun t => (t.cap.capEn, t.cap.capturing, t.cap.count)) =
      some (true, false, 0) := by decide
/-- B1 and B2. -/
theorem test_collect :
    after .collect (capturingFor 100 15) (fun t => (t.bank.collectResult, t.cap.count)) = some (.none, 15) ∧
    after .collect p1 (·.cap) = some p1.sessionReset.cap ∧
    after .collect p1 (·.bank) = some ⟨1, [(0, ⟨19, 24, 0, (List.range 19).zip scenarioB⟩)], .stored⟩ := by decide
/-- B3 and B4. -/
theorem test_collect_full :
    after .collect (p1.setBank { p1.bank with size := 5 }) (fun t => (t.bank.size, t.bank.collectResult, t.cap.ready)) =
      some (5, .full, true) ∧
    after .collect (p1.setCap { p1.cap with count := 10 }) (fun t => (t.bank.size, t.bank.collectResult, t.cap.ready)) =
      some (0, .discarded, false) := by decide
/-- P1 at 30000: slot 0 starts with a mark; X14: slot 1 is not filled. -/
theorem test_txBank :
    after (.txBank 0) p1Stored (fun t => (t.tx.busy, t.tx.irOut, t.tx.n, t.tx.half, t.tx.next)) =
      some (true, true, 19, 13, 25013) ∧
    after (.txBank 1) p1Stored (fun t => (t.tx.busy, t.host.cmdErr)) = some (false, true) := by decide
/-- X6: the empty mark is skipped; X8: no segment at all. -/
theorem test_txBuf :
    after .txBuf (loaded [0, 30, 26]) (fun t => (t.tx.busy, t.tx.irOut, t.tx.idx, t.tx.next)) =
      some (true, false, 1, 130) ∧
    after .txBuf (loaded []) (fun t => (t.tx.busy, t.tx.irOut, t.host.txDone)) = some (false, false, true) := by decide

/-! ### Events that are not encoded (95_test_vectors.md) -/

/-- T1. -/
theorem test_microsecond :
    afterStep (doing (.microsecond true)) (fun t => (t.tb.now, t.tb.tickDiv)) = some (1, 1) := by decide
/-- T3. -/
theorem test_wrap :
    (State.reset.setTb ⟨0xFFFFFFFF, 7, true⟩).microsecondStep true =
      State.reset.setTb ⟨0, 8, true⟩ := by decide
/-- T5: an edge while capture is disabled. -/
theorem test_disabled_edge : afterStep (doing (.microsecond false)) (·.statusWord) = some 0x00000040 := by decide
/-- T6: the edge is processed before the tick. -/
theorem test_edge_before_tick :
    (fun t : State => (t.tb.tickDiv, t.cap.capturing, t.cap.sessionStart, t.cap.lastEdge))
      (State.microsecondStep ((State.reset.setTb ⟨4999, 4999, true⟩).setCap { State.reset.cap with capEn := true }) false) =
      (0, true, 5000, 5000) := by decide
/-- E1: 19 µs after the last accepted edge is debounced; E2: 20 µs is not. -/
theorem test_debounce :
    ((capturingFor 19 0).edgeEvent 20000 true).cap.count = 0 ∧
    ((capturingFor 20 0).edgeEvent 20000 true).cap.buf = [(0, 20)] := by decide
/-- E3, E4. -/
theorem test_longest_pulse :
    ((capturingFor 10000 0).edgeEvent 20000 true).cap.buf = [(0, 10000)] ∧
    (fun t : State => (t.cap.count, t.host.long, t.cap.capturing)) ((capturingFor 10001 0).edgeEvent 20000 true) =
      (0, true, true) := by decide
/-- E7: a Ready sequence is overwritten. -/
theorem test_lost :
    ((p1.setTb { p1.tb with inPrev := false }).edgeEvent 30000 false).statusWord = 0x00020009 := by decide
/-- E11: a duration across the wrap. -/
theorem test_duration_wraps :
    (((capturingFor 0 0).setCap { (capturingFor 0 0).cap with lastEdge := 0xFFFFFF00, lastDb := 0xFFFFFF00 }).edgeEvent
      0x100 true).cap.buf = [(0, 512)] := by decide
/-- P3: the buffer is full. -/
theorem test_overflow :
    (fun t : State => (t.cap.count, t.cap.ready, t.cap.capturing, t.cap.totalMs))
      (((capturingFor 500 1024).edgeEvent 20000 true)) = (1024, true, false, 1) := by decide
/-- F1, F2, F3: a silence of exactly the gap, a short session, and one that is finalised. -/
theorem test_detector :
    ((capturingFor 10000 11).detectorTick 20000).cap.ready = false ∧
    ((capturingFor 10001 10).detectorTick 20000).cap.ready = false ∧
    ((capturingFor 10001 11).detectorTick 20000).cap.ready = true := by decide
/-- X1: the first half-period ends at 113, the mark at 126. -/
theorem test_engine_mark :
    (playing.txStep 112) = playing ∧ (playing.txStep 113).tx.irOut = false ∧
    (fun t : State => (t.tx.idx, t.tx.irOut, t.tx.next)) ((playing.txStep 113).txStep 126) = (1, false, 146) := by decide
/-- X2: a mark of one half-period ends high and is forced low. -/
theorem test_engine_end :
    (fun t : State => (t.tx.busy, t.tx.irOut, t.tx.idx, t.host.txDone)) ((txStart true 0 (loaded [13])).txStep 113) =
      (false, false, 1, true) := by decide
/-- RS1. -/
theorem test_hardware_reset :
    afterStep (playing.setInputs [.rstLevel true]) (fun t => (t.irOutPort, t.statusWord, t.tx.carrier, t.tb.now)) =
      some (false, 0x000000C0, 38000, 0) := by decide
/-- RS2. -/
theorem test_held_in_reset :
    afterStep (State.setEnv playing ⟨true, 5, [rd 0x48], 0, 0⟩) (fun t => (t.env.rdata, t.host.accErr)) =
      some (0, false) := by decide
/-- H2 to H6: the five refusals, and what STATUS reads after one. -/
theorem test_refused_accesses :
    ([rd 0x02, .access ⟨false, 0, 2, 0⟩, rd 0x80, rd 0x08, wr 0x0C 5].map fun x =>
      afterStep (doing x) (fun t => (t.env.rdata, t.statusWord, t.tb.now))) =
    List.replicate 5 (some (0, 0x001000C0, 0)) := by decide
/-- I4, I5: the interrupt line falls with the last enabled source. -/
theorem test_irq :
    let s := State.reset.setHost { State.reset.host with irqEn := 0x000C0000, txDone := true, cmdErr := true }
    after (.wrStatus 0x00040000) s (·.irq) = some true ∧ after (.wrStatus 0x000C0000) s (·.irq) = some false := by decide
/-- An access outside the window is none of the block's (log entry 8). -/
theorem test_outside_window :
    (match step (doing (rd 0x100)) with | .fault f => some f | _ => none) = some Fault.outsideWindow := by decide
/-- A placed command word runs (log entry 6). -/
theorem test_placed_word : afterStep (State.reset.withFetchWord 32 0x00000001) (·.cap.capEn) = some true := by decide

/-! ### The hypotheses of the obligations can be met -/

/-- Clause by clause, at the first value of each range (R86); the last legal words beside them. -/
theorem witness_IllegalCommandWordsRaiseCmdError :
    illegalCommand 0x00000007 ∧ illegalCommand 0x000000FF ∧ illegalCommand 0x00010000 ∧ illegalCommand 0x00000100 ∧
    ¬ illegalCommand 0x00000006 ∧ ¬ illegalCommand 0x0000FF05 := by
  decide

theorem witness_StepRunsDecodedAccess :
    let s := doing (wr 0x04 2)
    s.env.inputs = [.access ⟨true, 4, 4, 2⟩] ∧ s.env.rst = false ∧ 4 = s.cfg.base + (0x04#8).toNat ∧
    (match decodeAccess true 0x04 4 2 with | .ok i => some i | .error _ => none) = some (Instr.wrIrqEn 2) := by decide

theorem witness_StepRunsPlacedInstruction : State.reset.env.rst = false := rfl

/-- An access that its decoding refuses (H2), as the step meets it. -/
theorem witness_AccErrorCauses :
    let s := doing (rd 0x02)
    (s.env.inputs = [.access ⟨false, 2, 4, 0⟩] ∧ s.env.rst = false ∧ 2 = s.cfg.base + (0x02#8).toNat) ∧
    illegalAccess s ⟨false, 2, 4, 0⟩ (0x02#8).toNat := by decide

/-- The causes of R242 in the access code alone, at the boundary values: size, alignment, reserved offset, direction. -/
theorem witness_AccErrorCauses_code :
    ∀ a ∈ [(⟨false, 0x00, 2, 0⟩ : BusAccess), ⟨false, 0x02, 4, 0⟩, ⟨false, 0x80, 4, 0⟩, ⟨true, 0xFC, 4, 0⟩,
        ⟨false, 0x08, 4, 0⟩, ⟨true, 0x7C, 4, 0⟩], illegalAccess State.reset a a.addr := by decide

/-- Those in the value written (X16, X19), in the state (X20) and in the index (X18). -/
theorem witness_AccErrorCauses_transmit :
    ∀ c ∈ [(State.reset, (⟨true, 0x4C, 4, 1025⟩ : BusAccess)), (State.reset, ⟨true, 0x54, 4, 65536⟩),
        (playing, ⟨true, 0x4C, 4, 1⟩), (playing, ⟨true, 0x54, 4, 5⟩),
        (State.reset.setTx { State.reset.tx with index := 1024 }, ⟨true, 0x54, 4, 5⟩)],
      illegalAccess c.1 c.2 c.2.addr := by decide

/-- The accepted accesses beside them. -/
theorem witness_AccErrorCauses_accepted :
    ∀ a ∈ [(⟨false, 0x7C, 4, 0⟩ : BusAccess), ⟨true, 0x08, 4, 7⟩, ⟨true, 0x4C, 4, 1024⟩, ⟨true, 0x54, 4, 65535⟩],
      ¬ illegalAccess State.reset a a.addr := by decide

/-- A block in reset, and each of the three lists. -/
theorem witness_BlockHeldDuringReset :
    let s := fun l => State.setEnv playing ⟨true, 5, l, 0, 0⟩
    (s [rd 0x48]).env.rst = true ∧ (s [rd 0x48]).env.inputs = [.access ⟨false, 0x48, 4, 0⟩] ∧
    0x48 = (s [rd 0x48]).cfg.base + (0x48#8).toNat ∧
    (s [.microsecond true]).env.inputs = [.microsecond true] ∧
    (s [.rstLevel false, .microsecond true]).env.inputs = [.rstLevel false, .microsecond true] := by decide

/-- The assertion of `rst`, and the end of a reset. -/
theorem witness_HardwareResetValues :
    ((playing.setInputs [.rstLevel true]).env.inputs = [.rstLevel true] ∧ 1 ≤ playing.cfg.bankCap) ∧
    ((State.setEnv playing ⟨true, 0, [.rstLevel false], 0, 0⟩).env.inputs = [.rstLevel false] ∧
      (State.setEnv playing ⟨true, 0, [.rstLevel false], 0, 0⟩).env.rst = true) := by decide

/-- A microsecond with a tick and an edge (T6), and one with neither. -/
theorem witness_MicrosecondOrder :
    let s := (doing (.microsecond false)).setTb ⟨4999, 4999, true⟩
    let u := doing (.microsecond true)
    (s.env.inputs = [.microsecond false] ∧ s.env.rst = false ∧ (s.tb.tickDiv + 1).toNat = s.cfg.tickPeriodUs ∧
      s.tb.inPrev = true) ∧
    (u.env.inputs = [.microsecond true] ∧ u.env.rst = false) := by decide

/-- A step of each kind that answers a next state. -/
theorem witness_step_answers_next :
    (∃ t, step State.reset = .next t) ∧ (∃ t, step (doing (rd 0x00)) = .next t) ∧
    (∃ t, step (doing (.microsecond false)) = .next t) ∧ (∃ t, step (doing (.rstLevel true)) = .next t) :=
  ⟨⟨_, rfl⟩, next_of_goesOn (by decide), next_of_goesOn (by decide), next_of_goesOn (by decide)⟩

theorem witness_TimeAdvancesByMicroseconds : ∃ t, step (doing (.microsecond false)) = .next t :=
  witness_step_answers_next.2.2.1

theorem witness_ParametersNeverChange : ∃ t, step (doing (.rstLevel true)) = .next t := witness_step_answers_next.2.2.2

theorem witness_TicksFallOnThePeriod : State.reset.cfg.Legal ∧ State.reset.AtReset :=
  ⟨by decide, rfl, rfl, rfl, rfl, rfl⟩

/-- Both cases: an access of the window, and one outside it. -/
theorem witness_StepStopsOnlyOutsideTheWindow :
    (∃ t, step (doing (rd 0xFF)) = .next t) ∧
    ((doing (rd 0x100)).env.inputs = [.access ⟨false, 0x100, 4, 0⟩] ∧
      ¬ (doing (rd 0x100)).InWindow ⟨false, 0x100, 4, 0⟩) :=
  ⟨next_of_goesOn (by decide), by unfold State.InWindow; decide⟩

/-- A capture in progress: one entry, its edge at 1420, time 1500 (vector E2's shape). -/
def oneEntry : State :=
  ((doing (.microsecond false)).setTb ⟨1500, 1500, true⟩).setCap
    { State.reset.cap with
      capEn := true, capturing := true, count := 1, lastEdge := 1420, lastDb := 1420, sessionStart := 1000
      buf := [(0, 420)] }

theorem witness_EveryStepKeepsTheInvariant : oneEntry.Inv ∧ ∃ t, step oneEntry = .next t := by
  refine ⟨⟨by decide, ⟨by decide, by decide⟩, ⟨by decide, by decide, by decide, by decide, by decide, by decide, by decide, ?_⟩,
    ⟨by decide, by decide, by decide, fun k hk => absurd hk (by rw [show oneEntry.bank.size.toNat = 0 by decide]; omega)⟩,
    ⟨by decide, by decide, by decide, by decide, fun h => absurd h (by decide), by decide⟩,
    fun h => absurd h (by decide)⟩, next_of_goesOn (by decide)⟩
  intro i hi
  have hi0 : i = 0 := by
    have h : oneEntry.cap.count.toNat = 1 := by decide
    omega
  subst hi0
  exact ⟨420, by decide, by unfold DurationInRange; decide⟩

/-- A level of `rst` that is no hardware reset: it is driven low while it is low (log entry 10). -/
theorem witness_rst_stays_low (s : State) (h : s.env.rst = false) :
    ∀ level rest, (s.setInputs [.rstLevel false]).env.inputs = .rstLevel level :: rest →
      level = false ∧ (s.setInputs [.rstLevel false]).env.rst = false := by
  intro level rest heq
  cases heq
  exact ⟨rfl, h⟩

/-- A filled slot, and `rst` driven low while it is low. -/
theorem witness_FilledSlotsAreImmutable_rst :
    let s := p1Stored.setInputs [.rstLevel false]
    (s.bank.size.toNat = 1 ∧ s.bank.size.toNat ≤ s.cfg.bankCap ∧ s.cfg.bankCap ≤ 255 ∧ ∃ t, step s = .next t) ∧
    ∀ level rest, s.env.inputs = .rstLevel level :: rest → level = false ∧ s.env.rst = false :=
  ⟨⟨by decide, by decide, by decide, next_of_goesOn (by decide)⟩, witness_rst_stays_low _ rfl⟩

/-- A filled slot, and a COLLECT that fills the next one. -/
theorem witness_FilledSlotsAreImmutable :
    let s := (p1Stored.setCap p1.cap).setInputs [wr 0x08 4]
    (s.bank.size.toNat = 1 ∧ s.bank.size.toNat ≤ s.cfg.bankCap ∧ s.cfg.bankCap ≤ 255 ∧
      s.env.inputs = [.access ⟨true, 8, 4, 4⟩]) ∧ ∃ t, step s = .next t := by
  refine ⟨by decide, next_of_goesOn (by decide)⟩

/-- Both ways a sticky flag is cleared, the end of a reset among the second. -/
theorem witness_StickyFlagsStayUntilCleared :
    let s := fun x => (doing x).setHost { State.reset.host with txDone := true }
    (sticky (s (wr 0x00 0x00040000)).host 18 = true ∧
      afterStep (s (wr 0x00 0x00040000)) (fun t => sticky t.host 18) = some false) ∧
    (sticky (s (.rstLevel true)).host 18 = true ∧
      afterStep (s (.rstLevel true)) (fun t => sticky t.host 18) = some false) ∧
    (let u := (s (.rstLevel false)).setEnv { (s (.rstLevel false)).env with rst := true }
     sticky u.host 18 = true ∧ afterStep u (fun t => sticky t.host 18) = some false) := by decide

/-- Each refusal of a transmit command at its boundary, and the accepted start beside it (R241). -/
theorem witness_transmitRefused :
    transmitRefused playing true 0 ∧ transmitRefused p1Stored false 1 ∧
    transmitRefused (p1Stored.setTx { p1Stored.tx with carrier := 0 }) false 0 ∧
    transmitRefused (p1Stored.setTx { p1Stored.tx with carrier := 500001 }) false 0 ∧
    ¬ transmitRefused p1Stored false 0 ∧
    ¬ transmitRefused (p1Stored.setTx { p1Stored.tx with carrier := 500000 }) false 0 ∧
    ¬ transmitRefused (p1Stored.setTx { p1Stored.tx with carrier := 1 }) true 0 := by
  decide

theorem witness_TransmitRefusals : transmitRefused p1Stored false (1#8).toNat ∧ transmitRefused playing true 0 :=
  ⟨witness_transmitRefused.2.1, witness_transmitRefused.1⟩

/-- CMD_ERR clear, with a cause and without one. -/
theorem witness_CmdErrorCauses : p1Stored.host.cmdErr = false ∧ playing.host.cmdErr = false := by decide

/-- A transmission of each source in progress, and an access meanwhile. -/
theorem witness_BusyTransmissionIsUndisturbed :
    (playing.tx.busy = true ∧ playing.tx.useBuf = true ∧ ∃ t, exec (.wrTxCarrierHz 40000) playing = .next t) ∧
    (let s := txStart false 0 p1Stored
     s.tx.busy = true ∧ s.tx.useBuf = false ∧ s.tx.slot < s.bank.size ∧ ∃ t, exec .collect s = .next t) :=
  ⟨⟨by decide, by decide, _, rfl⟩, by decide, by decide, by decide, _, rfl⟩

/-- Two states with one session and different transmitters, and two with one transmitter and different sessions. -/
theorem witness_CaptureAndTransmissionShareNoState :
    (let s := State.reset.setTb ⟨100, 100, true⟩
     s.cfg = playing.cfg ∧ s.tb = playing.tb ∧ s.cap = playing.cap ∧ s.tx ≠ playing.tx) ∧
    (let s := playing.setCap p1.cap
     s.tb.now = playing.tb.now ∧ s.tx = playing.tx ∧ s.bank = playing.bank ∧ s.env = playing.env ∧
      s.cap ≠ playing.cap) := by decide

theorem witness_ReadySequenceIsFrozen :
    let s := p1.setInputs [.microsecond true]
    ready s ∧ (∃ t, step s = .next t) ∧ afterStep s (·.cap.ready) = some true ∧ s.env.inputs = [.microsecond true] :=
  ⟨by decide, next_of_goesOn (by decide), by decide, by decide⟩

/-- A Ready sequence, and `rst` driven low while it is low. -/
theorem witness_ReadySequenceIsFrozen_rst :
    let s := p1.setInputs [.rstLevel false]
    (ready s ∧ (∃ t, step s = .next t) ∧ afterStep s (·.cap.ready) = some true) ∧
    ∀ level rest, s.env.inputs = .rstLevel level :: rest → level = false ∧ s.env.rst = false :=
  ⟨⟨by decide, next_of_goesOn (by decide), by decide⟩, witness_rst_stays_low _ rfl⟩

/-- The debounce bound, and the enable (E1, E2, E6). -/
theorem witness_EdgesAreGatedAndDebounced :
    ¬ accepted (capturingFor 19 0) 20000 ∧ accepted (capturingFor 20 0) 20000 ∧ ¬ accepted State.reset 1000 := by decide

/-- Idle, capture enabled, the last edge long ago. -/
theorem witness_RisingEdgeOutsideCaptureIsIgnored : accepted p1 25000 ∧ p1.cap.capturing = false := by decide

/-- In the Ready state and in the Idle state. -/
theorem witness_FallingEdgeStartsASession :
    (accepted p1 25000 ∧ p1.cap.capturing = false ∧ p1.cap.ready = true) ∧
    (accepted p1Stored 25000 ∧ p1Stored.cap.capturing = false ∧ p1Stored.cap.ready = false) := by decide

/-- Each class of duration at its bounds, with the buffer free and full; a short one needs DEBOUNCE_US below
MIN_PULSE_US. -/
theorem witness_DurationsAreClassified :
    (∀ s ∈ [capturingFor 20 1023, capturingFor 10000 1023, capturingFor 10000 1024, capturingFor 10001 5,
        { capturingFor 19 5 with cfg := { Config.Params.reference with debounceUs := 19 } }],
      accepted s 20000 ∧ s.cap.capturing = true) ∧
    [capturingFor 20 1023, capturingFor 10000 1023, capturingFor 10000 1024, capturingFor 10001 5,
        { capturingFor 19 5 with cfg := { Config.Params.reference with debounceUs := 19 } }].map
      (fun s => ((20000 - s.cap.lastEdge).toNat, s.cap.count)) =
      [(20, 1023), (10000, 1023), (10000, 1024), (10001, 5), (19, 5)] := by decide

/-- A configuration with short periods, two entries since 1000, and `count` of them needed. -/
def shortPeriods (minValid : Nat) : State :=
  { State.reset with
    cfg := { Config.Params.reference with silenceGapUs := 4, tickPeriodUs := 3, minValidCount := minValid }
    tb := ⟨1002, 1, true⟩
    cap := { State.reset.cap with capturing := true, count := 2, lastEdge := 1000, lastDb := 1000 } }

theorem witness_ShortSessionHangs :
    capturing (shortPeriods 2) ∧ (shortPeriods 2).cap.count.toNat ≤ (shortPeriods 2).cfg.minValidCount ∧
    noEdgeAccepted (shortPeriods 2) [true, false, true, true, true, true] := by
  decide

theorem witness_CompletionLatency :
    let s := shortPeriods 1
    let levels := [true, false, true, true, true]
    s.cfg.Legal ∧ s.tb.tickDiv.toNat < s.cfg.tickPeriodUs ∧ capturing s ∧ s.cfg.minValidCount < s.cap.count.toNat ∧
    (s.tb.now - s.cap.lastEdge).toNat ≤ s.cfg.silenceGapUs ∧
    s.cfg.silenceGapUs + s.cfg.tickPeriodUs ≤ (s.tb.now - s.cap.lastEdge).toNat + levels.length ∧
    noEdgeAccepted s levels := by
  decide

/-- A state of each kind, and each side of its transition: an edge that is accepted, one that is not, a full buffer, and a
tick after the silence. -/
theorem witness_SessionTransitions :
    (idle p1Stored ∧ p1Stored.cap.count.toNat ≤ p1Stored.cfg.capacity ∧ acceptedSample p1Stored false) ∧
    (ready p1 ∧ p1.cap.count.toNat ≤ p1.cfg.capacity ∧ acceptedSample p1 false ∧ ¬ acceptedSample p1 true) ∧
    (capturing (capturingFor 500 1024) ∧ (capturingFor 500 1024).cap.count.toNat = (capturingFor 500 1024).cfg.capacity ∧
      acceptedSample (capturingFor 500 1024) true) ∧
    (let s := (capturingFor 10000 11).setTb ⟨20000, 4999, false⟩
     capturing s ∧ s.tickFires = true ∧ ¬ acceptedSample s false ∧
      s.cfg.silenceGapUs < (s.tb.now + 1 - s.cap.lastEdge).toNat ∧ s.cfg.minValidCount < s.cap.count.toNat) := by decide

/-- A transmission of each source, one that starts with a space, and one with no segment (X6, X8). -/
theorem witness_TransmitStarts :
    ¬ transmitRefused p1Stored false (0#8).toNat ∧ ¬ transmitRefused (loaded [0, 30, 26]) true (0#8).toNat ∧
    ¬ transmitRefused (loaded []) true (0#8).toNat ∧
    sequenceOf (loaded [0, 30, 26]) true 0 = [0, 30, 26] ∧ sequenceOf (loaded []) true 0 = [] := by
  decide

/-- Both clauses: another time than that of the next event, and a half-period boundary. -/
theorem witness_EngineTogglesInsideAMark :
    (112 : Word) ≠ playing.tx.next ∧
    (playing.tx.busy = true ∧ 113 = playing.tx.next ∧ playing.tx.idx.toNat % 2 = 0 ∧
      (113 - playing.tx.segStart).toNat < (playing.seq playing.tx.idx.toNat).toNat) := by decide

/-- X2: the only mark ends. -/
theorem witness_TransmissionEndsLow :
    let s := txStart true 0 (loaded [13])
    s.tx.busy = true ∧ 113 = s.tx.next ∧ s.tx.idx + 1 = s.tx.n ∧
    ¬(s.tx.idx.toNat % 2 = 0 ∧ (113 - s.tx.segStart).toNat < (s.seq s.tx.idx.toNat).toNat) := by decide

theorem witness_TransmittedWaveform :
    ¬ transmitRefused (loaded [26, 20, 14]) true (0#8).toNat ∧ ∃ t, exec .txBuf (loaded [26, 20, 14]) = .next t := by
  refine ⟨?_, _, rfl⟩
  decide

/-- A mark just entered (X1), and a space (X6), each with a segment that is not empty after it; and the half-period at
both ends of its range. -/
theorem witness_SegmentLengthBounds :
    (∀ s ∈ [playing, txStart true 0 (loaded [0, 30, 26])],
      justEntered s ∧ s.tx.half.toNat = 13 ∧ s.tx.idx.toNat + 1 < s.tx.n.toNat ∧ s.seq (s.tx.idx.toNat + 1) ≠ 0) ∧
    (∀ c ∈ [((1 : Word), 500000), (500000, 1)],
      let s := txStart true 0 ((loaded [26, 20, 14]).setTx { (loaded [26, 20, 14]).tx with carrier := c.1 })
      justEntered s ∧ s.tx.half.toNat = c.2) := by
  decide

/-- TxBuf holds slot 0's entries. -/
theorem witness_BufferCopyPlaysLikeTheSlot :
    let s := p1Stored.setTx { p1Stored.tx with count := 19, buf := (List.range 19).zip scenarioB }
    ¬ transmitRefused s false (0#8).toNat ∧ s.tx.count = (s.slotAt (0#8).toNat).count ∧
    (∀ i < s.tx.count.toNat, s.txEntry i = s.bankEntry (0#8).toNat i) ∧
    (∃ b, exec (.txBank 0) s = .next b) ∧ ∃ b, exec .txBuf s = .next b := by
  refine ⟨?_, by decide, by decide, ⟨_, rfl⟩, _, rfl⟩
  decide

theorem witness_IdempotentWrites :
    Instr.wrTxCount 5 ∈ [Instr.wrStatus 5, .wrIrqEn 5, .wrCapIndex 5, .wrBankSel 5, .wrBankIndex 5, .wrTxCarrierHz 5,
      .wrTxCount 5, .wrTxIndex 5] := by decide

end Sys2Proof.Tests
end

section
/-! The parameters of the built block through every event (spec/00_scope.md R5, spec/45_host_interface.md R221). -/

namespace Sys2Proof.Machine

@[simp] theorem State.microsecondStep_cfg (s : State) (lvl : Bool) : (s.microsecondStep lvl).cfg = s.cfg := by
  rw [State.microsecondStep_eq, State.txStep_cfg, State.captureStep_cfg]

@[simp] theorem State.passMicrosecond_cfg (s : State) (lvl : Bool) : (s.passMicrosecond lvl).cfg = s.cfg := by
  unfold State.passMicrosecond
  split
  · rfl
  · exact s.microsecondStep_cfg lvl

@[simp] theorem freeMicrosecond_cfg (s : State) : (freeMicrosecond s).cfg = s.cfg :=
  State.passMicrosecond_cfg _ _

@[simp] theorem State.driveRst_cfg (s : State) (level : Bool) : (s.driveRst level).cfg = s.cfg := by
  obtain ⟨-, asserted⟩ | ⟨-, -, released⟩ | ⟨-, -, unchanged⟩ := s.driveRst_cases level
  · simp [asserted]
  · simp [released]
  · rw [unchanged]

@[simp] theorem State.refuseAccess_cfg (s : State) (write : Bool) : (s.refuseAccess write).cfg = s.cfg := by
  rw [State.refuseAccess_eq]

/-- An instruction that answers a next state keeps the parameters (R221). -/
theorem exec_cfg {i : Instr} {s t : State} (h : exec i s = .next t) : t.cfg = s.cfg :=
  (effect_of_exec h).frame.1

/-- Settles O17, by the kinds of event a step can take: a free or a sampled microsecond, a level of `rst`, an access while
`rst` is asserted, a refused access, and an instruction. -/
theorem parametersNeverChange : Obligations.ParametersNeverChange := by
  intro s t h
  obtain ⟨-, rfl⟩ | ⟨lvl, rest, -, rfl⟩ | ⟨level, rest, -, rfl⟩ | ⟨a, rest, _, -, -, -, rfl⟩ |
    ⟨a, rest, _, _, -, -, -, -, rfl⟩ | ⟨_, rest, _, i, -, -, -, -, hexec⟩ := step_cases h
  · exact freeMicrosecond_cfg s
  · rw [State.passMicrosecond_cfg, State.setInputs_cfg]
  · rw [State.driveRst_cfg, State.setInputs_cfg]
  · split <;> rfl
  · rw [State.refuseAccess_cfg, State.setInputs_cfg]
  · rw [exec_cfg hexec, State.setInputs_cfg]

end Sys2Proof.Machine
end

section
/-! The registers of this family: IRQ_EN, and the read-out of CapBuf and of the bank (spec/41_edge_capturer.md R137,
spec/43_signal_bank.md R167, R168, spec/45_host_interface.md R216). -/

namespace Sys2Proof.Machine
open Sys2Proof.Claims

/-- The writable bits of IRQ_EN, bit by bit (R32). -/
theorem irqEnMask_getLsbD (b : Nat) : irqEnMask.getLsbD b = decide (b = 1 ∨ (16 ≤ b ∧ b ≤ 20)) := by
  by_cases hb : b < 32
  · have bits : ∀ b < 32, irqEnMask.getLsbD b = decide (b = 1 ∨ (16 ≤ b ∧ b ≤ 20)) := by decide
    exact bits b hb
  · rw [BitVec.getLsbD_of_ge _ _ (by omega), eq_comm, decide_eq_false_iff_not]
    omega

/-- Settles O37: a stored bit is a bit of `wdata` under the mask of R32. -/
theorem irqEnableRegister : Obligations.IrqEnableRegister := by
  intro w s
  refine ⟨⟨w &&& irqEnMask, rfl, fun b => ?_⟩, rfl⟩
  rw [BitVec.getLsbD_and, irqEnMask_getLsbD]
  split <;> simp [*]

/-- Settles O41: the read answers the indexed entry under the count, and an answered read changes the bus data only. -/
theorem capDataReadsTheIndexedEntry : Obligations.CapDataReadsTheIndexedEntry := fun _ => rfl

/-- The selected slot where BANK_SEL is below the bank's size (R167). -/
theorem State.selectedSlot_filled {s : State} (h : s.host.bankSel.toNat < s.bank.size.toNat) :
    s.selectedSlot = some (s.slotAt s.host.bankSel.toNat) := if_pos h

/-- No slot is selected where BANK_SEL is not below the bank's size (R167). -/
theorem State.selectedSlot_empty {s : State} (h : ¬ s.host.bankSel.toNat < s.bank.size.toNat) :
    s.selectedSlot = none := if_neg h

/-- Settles O42, by whether the selected slot is filled. -/
theorem bankReadOut : Obligations.BankReadOut := by
  intro s k filled
  simp only [exec, execRdBankCount, execRdBankTotalMs, execRdBankLabel, execRdBankData]
  by_cases hk : filled
  · simp only [State.selectedSlot_filled hk, hk, true_and]
    exact ⟨rfl, rfl, rfl, rfl⟩
  · simp only [State.selectedSlot_empty hk, hk, false_and]
    exact ⟨rfl, rfl, rfl, rfl⟩

end Sys2Proof.Machine
end

section
/-! The filled slots of the bank through every event (spec/43_signal_bank.md R160): COLLECT writes the first slot that is not
filled, hardware reset empties the bank, and nothing else touches it. -/

namespace Sys2Proof.Machine

/-- Every slot filled in `s` is filled in `t`, and holds what it held; no hardware reset has come between (R160). -/
structure State.SlotsKept (s t : State) : Prop where
  size : s.bank.size.toNat ≤ t.bank.size.toNat
  slot : ∀ k < s.bank.size.toNat, t.slotAt k = s.slotAt k
  epoch : t.env.epoch = s.env.epoch

/-- The entries of a filled slot stay with the slot (R160). -/
theorem State.SlotsKept.entry {s t : State} (h : s.SlotsKept t) {k : Nat} (hk : k < s.bank.size.toNat) (i : Nat) :
    t.bankEntry k i = s.bankEntry k i :=
  State.bankEntry_congr (h.slot k hk) h.epoch i

/-- Where the size, the slots and the reset count are the same, every filled slot is. -/
theorem State.SlotsKept.of_same {s t : State} (hsize : t.bank.size = s.bank.size) (hslots : t.bank.slots = s.bank.slots)
    (hepoch : t.env.epoch = s.env.epoch) : s.SlotsKept t where
  size := by rw [hsize]
  slot k _ := by simp only [State.slotAt, hslots, hepoch]
  epoch := hepoch

/-- Slots kept by one event and by the next are kept by both. -/
theorem State.SlotsKept.trans {s t u : State} (h : s.SlotsKept t) (h' : t.SlotsKept u) : s.SlotsKept u where
  size := h.size.trans h'.size
  slot k hk := (h'.slot k (Nat.lt_of_lt_of_le hk h.size)).trans (h.slot k hk)
  epoch := h'.epoch.trans h.epoch

/-- Taking an event off the environment's list touches no slot. -/
theorem State.setInputs_slotsKept (s : State) (l : List Input) : s.SlotsKept (s.setInputs l) := .of_same rfl rfl rfl

/-- COLLECT keeps every filled slot: the one it fills stands at `s.bank_size`, which BANK_CAP bounds (R160, R162). -/
theorem cmdCollect_slotsKept {s : State} (hsize : s.bank.size.toNat ≤ s.cfg.bankCap) (hcap : s.cfg.bankCap ≤ 255) :
    s.SlotsKept (cmdCollect s) := by
  obtain ⟨-, none⟩ | ⟨-, -, discarded⟩ | ⟨-, -, -, full⟩ | ⟨-, -, notFull, stored⟩ := cmdCollect_cases s
  · rw [none]; exact .of_same rfl rfl rfl
  · rw [discarded]; exact .of_same rfl rfl rfl
  · rw [full]; exact .of_same rfl rfl rfl
  · have hsucc : (s.bank.size + 1).toNat = s.bank.size.toNat + 1 :=
      BitVec.toNat_add_of_lt (by simp; omega)
    have size : (cmdCollect s).bank.size = s.bank.size + 1 := by rw [stored]
    have slots : (cmdCollect s).bank.slots =
        s.bank.slots.write s.bank.size.toNat (s.collectedSlot s.bank.size.toNat) := by rw [stored]
    have epoch : (cmdCollect s).env.epoch = s.env.epoch := by rw [stored]
    refine ⟨by rw [size, hsucc]; omega, fun k hk => ?_, epoch⟩
    rw [State.slotAt_of_write slots epoch, if_neg (Nat.ne_of_lt hk)]

/-- No instruction changes a filled slot (R160). -/
theorem Effect.slotsKept {s t : State} (h : Effect s t) (hsize : s.bank.size.toNat ≤ s.cfg.bankCap)
    (hcap : s.cfg.bankCap ≤ 255) : s.SlotsKept t := by
  cases h with
  | collect => exact cmdCollect_slotsKept hsize hcap
  | transmit useBuf slot accepted =>
    obtain ⟨_, _, _, _, _, _, _, frame⟩ := txStart_frame useBuf slot s accepted
    rw [frame]; exact .of_same rfl rfl rfl
  | _ => exact .of_same rfl rfl rfl

/-- A microsecond changes neither the bank nor the environment (R110). -/
theorem State.passMicrosecond_slotsKept (s : State) (lvl : Bool) : s.SlotsKept (s.passMicrosecond lvl) := by
  rw [State.passMicrosecond_frame]
  split
  · exact .of_same rfl rfl rfl
  · exact .of_same (by simp) (by simp) (by simp)

/-- A microsecond with a free level of `ir_in` keeps every filled slot (R112). -/
theorem freeMicrosecond_slotsKept (s : State) : s.SlotsKept (freeMicrosecond s) := by
  have counted : s.SlotsKept (s.setEnv { s.env with freeCtr := s.env.freeCtr + 1 }) := .of_same rfl rfl rfl
  exact counted.trans (State.passMicrosecond_slotsKept _ _)

/-- A level of `rst` that is no hardware reset keeps every filled slot (R160, R261). -/
theorem State.driveRst_slotsKept {s : State} (h : s.env.rst = false) : s.SlotsKept (s.driveRst false) := by
  obtain ⟨asserted, -⟩ | ⟨-, asserted, -⟩ | ⟨-, -, unchanged⟩ := s.driveRst_cases false
  · cases asserted
  · rw [h] at asserted; cases asserted
  · rw [unchanged]; exact .of_same rfl rfl rfl

/-- Settles O18, by the kinds of event a step can take. -/
theorem filledSlotsAreImmutable : Obligations.FilledSlotsAreImmutable := by
  intro s t hsize hcap hstep noReset
  have kept : s.SlotsKept t := by
    obtain ⟨-, rfl⟩ | ⟨lvl, rest, -, rfl⟩ | ⟨level, rest, hin, rfl⟩ | ⟨a, rest, _, -, -, -, rfl⟩ |
      ⟨a, rest, _, _, -, -, -, -, rfl⟩ | ⟨_, rest, _, i, -, -, -, -, hexec⟩ := step_cases hstep
    · exact freeMicrosecond_slotsKept s
    · exact (s.setInputs_slotsKept rest).trans (State.passMicrosecond_slotsKept _ _)
    · obtain ⟨rfl, hrst⟩ := noReset level rest hin
      exact (s.setInputs_slotsKept rest).trans (State.driveRst_slotsKept hrst)
    · split <;> exact .of_same rfl rfl rfl
    · rw [State.refuseAccess_eq]; exact .of_same rfl rfl rfl
    · exact (s.setInputs_slotsKept rest).trans ((effect_of_exec hexec).slotsKept hsize hcap)
  exact ⟨kept.size, fun k hk => ⟨kept.slot k hk, kept.entry hk⟩⟩

end Sys2Proof.Machine
end

section
/-! The capture session through one microsecond (spec/41_edge_capturer.md R120 to R125, spec/42_frame_detector.md R150): what
an accepted edge does to it, and that the detector acts only where no edge was accepted; then the transition table of the
session (R134). -/

namespace Sys2Proof.Machine
open Sys2Proof.Claims

/-- An accepted rising edge while not capturing: the three stamps of R125, and nothing else (R121). -/
theorem State.acceptedEdge_rising {s : State} (t : Word) (h : s.cap.capturing = false) :
    s.acceptedEdge t true = s.setCap { s.cap with lastDb := t, lastEdge := t, lastLevel := true } := by
  simp [State.acceptedEdge, h]

/-- An accepted falling edge while not capturing: start-of-signal, LOST where a Ready sequence is overwritten (R122, R125). -/
theorem State.acceptedEdge_falling {s : State} (t : Word) (h : s.cap.capturing = false) :
    s.acceptedEdge t false = { s with
      cap := { s.cap with
        count := 0, complete := false, totalMs := 0, ready := false, capturing := true, sessionStart := t
        lastDb := t, lastEdge := t, lastLevel := false }
      host := { s.host with lost := s.host.lost || s.cap.ready } } := by
  simp [State.acceptedEdge, h, State.startOfSignal_eq, State.setCap]

/-- The interval since the last accepted edge is a duration to store (R123). -/
abbrev State.PulseInRange (s : State) (t : Word) : Prop :=
  s.cfg.minPulseUs ≤ elapsed t s.cap.lastEdge ∧ elapsed t s.cap.lastEdge ≤ s.cfg.maxPulseUs

/-- Everything an accepted edge can do to the session while capturing: append a duration, finalise a full buffer, or drop a
duration out of range (R123); the three stamps of R125 in each case. -/
theorem State.acceptedEdge_capturing_cases {s : State} (t : Word) (lvl : Bool) (h : s.cap.capturing = true) :
    (s.PulseInRange t ∧ s.cap.count.toNat < s.cfg.capacity ∧
      (s.acceptedEdge t lvl).cap = { s.cap with
        buf := s.cap.buf.write s.cap.count.toNat (durationEntry (elapsed t s.cap.lastEdge)), count := s.cap.count + 1
        lastDb := t, lastEdge := t, lastLevel := lvl }) ∨
    (s.PulseInRange t ∧ s.cfg.capacity ≤ s.cap.count.toNat ∧
      (s.acceptedEdge t lvl).cap = { s.cap with
        totalMs := spanMs t s.cap.sessionStart, complete := true, capturing := false, ready := true
        lastDb := t, lastEdge := t, lastLevel := lvl }) ∨
    (¬ s.PulseInRange t ∧
      (s.acceptedEdge t lvl).cap = { s.cap with lastDb := t, lastEdge := t, lastLevel := lvl }) := by
  have edge : (s.acceptedEdge t lvl).cap =
      { ((s.setCap { s.cap with lastDb := t }).inCapture t).cap with lastEdge := t, lastLevel := lvl } := by
    simp [State.acceptedEdge, h]
  rw [edge]
  obtain ⟨lo, hi, room, append⟩ | ⟨lo, hi, full, finalise⟩ | ⟨out, -, long⟩ | ⟨out, -, short⟩ :=
    State.inCapture_cases (s.setCap { s.cap with lastDb := t }) t
  · rw [append]; exact .inl ⟨⟨lo, hi⟩, room, rfl⟩
  · rw [finalise]; exact .inr (.inl ⟨⟨lo, hi⟩, full, rfl⟩)
  · rw [long]; exact .inr (.inr ⟨out, rfl⟩)
  · rw [short]; exact .inr (.inr ⟨out, rfl⟩)

/-- An accepted edge stamps its time (R125). -/
theorem State.acceptedEdge_lastEdge (s : State) (t : Word) (lvl : Bool) :
    (s.acceptedEdge t lvl).cap.lastEdge = t := rfl

/-- The detector acts exactly where it finds a long capture ended by silence (R150). -/
abbrev State.SilenceEnds (s : State) (t : Word) : Prop :=
  s.cap.capturing = true ∧ s.cfg.silenceGapUs < elapsed t s.cap.lastEdge ∧ s.cfg.minValidCount < s.cap.count.toNat

/-- The tick that ends a capture (R150). -/
theorem State.detectorTick_of_silence {s : State} {t : Word} (h : s.SilenceEnds t) :
    s.detectorTick t = s.finalize t := if_pos h

/-- Any other tick changes nothing (R151). -/
theorem State.detectorTick_of_no_silence {s : State} {t : Word} (h : ¬ s.SilenceEnds t) :
    s.detectorTick t = s := if_neg h

/-- At the time of an accepted edge no silence has passed, and the detector changes nothing (R110, R150). -/
theorem State.detectorTick_acceptedEdge (s : State) (t : Word) (lvl : Bool) :
    (s.acceptedEdge t lvl).detectorTick t = s.acceptedEdge t lvl := by
  refine State.detectorTick_of_no_silence fun ⟨_, silence, _⟩ => ?_
  simp [State.acceptedEdge_lastEdge, elapsed] at silence

/-- A sample that differs from the last is an edge, and it is accepted as R120 says. -/
theorem acceptedSample_iff (s : State) (lvl : Bool) :
    acceptedSample s lvl ↔ lvl ≠ s.tb.inPrev ∧ s.acceptsEdge (s.tb.now + 1) = true := by
  rw [State.acceptsEdge_iff]
  rfl

/-- The edge event of a microsecond's sample: the accepted edge, or nothing (R113, R120). -/
theorem State.sampledEdge_eq (s : State) (lvl : Bool) [Decidable (acceptedSample s lvl)] :
    (if lvl = s.tb.inPrev then s else s.edgeEvent (s.tb.now + 1) lvl) =
      if acceptedSample s lvl then s.acceptedEdge (s.tb.now + 1) lvl else s := by
  by_cases same : lvl = s.tb.inPrev
  · rw [if_pos same, if_neg fun h => ((acceptedSample_iff s lvl).mp h).1 same]
  · rw [if_neg same]
    cases accepts : s.acceptsEdge (s.tb.now + 1) with
    | true => rw [State.edgeEvent_accepted s _ _ accepts, if_pos ((acceptedSample_iff s lvl).mpr ⟨same, accepts⟩)]
    | false =>
      have notAccepted : ¬ acceptedSample s lvl := by rw [acceptedSample_iff, accepts]; simp
      rw [State.edgeEvent_rejected s _ _ accepts, if_neg notAccepted]

/-- The session after a microsecond with an accepted edge is the session after the edge (R110, R120). -/
theorem State.captureStep_cap_of_accepted {s : State} {lvl : Bool} (h : acceptedSample s lvl) :
    (s.captureStep lvl).cap = (s.acceptedEdge (s.tb.now + 1) lvl).cap := by
  rw [State.captureStep_cap, State.sampledEdge_eq, if_pos h]
  dsimp only
  rw [State.detectorTick_acceptedEdge, ite_self]

/-- The session after a microsecond without an accepted edge is finalised or left as it was (R110, R150, R151). -/
theorem State.captureStep_cap_of_not_accepted {s : State} {lvl : Bool} (h : ¬ acceptedSample s lvl) :
    (s.captureStep lvl).cap =
      if s.tickFires = true ∧ s.SilenceEnds (s.tb.now + 1) then (s.finalize (s.tb.now + 1)).cap else s.cap := by
  rw [State.captureStep_cap, State.sampledEdge_eq, if_neg h]
  dsimp only
  by_cases fires : s.tickFires = true
  · by_cases silent : s.SilenceEnds (s.tb.now + 1)
    · rw [if_pos fires, if_pos ⟨fires, silent⟩, State.detectorTick_of_silence silent]
    · rw [if_pos fires, if_neg fun h => silent h.2, State.detectorTick_of_no_silence silent]
  · rw [if_neg fires, if_neg fun h => fires h.1]

/-- The host flags after the capture half of a microsecond are those after its edge event (R110). -/
theorem State.captureStep_host (s : State) (lvl : Bool) [Decidable (acceptedSample s lvl)] :
    (s.captureStep lvl).host = (if acceptedSample s lvl then s.acceptedEdge (s.tb.now + 1) lvl else s).host := by
  have sampled : (s.captureStep lvl).host = (s.counterUpdate.sampleInput lvl).host := by
    unfold State.captureStep
    dsimp only
    split
    · exact State.detectorTick_host _ _
    · rfl
  rw [sampled, ← State.sampledEdge_eq, State.sampleInput_eq]
  by_cases same : lvl = s.tb.inPrev
  · rw [if_pos (by exact same), if_pos same]; rfl
  · rw [if_neg (by exact same), if_neg same]
    exact (congrArg State.host (State.edgeEvent_withTb s s.counterUpdate.tb (s.tb.now + 1) lvl) :)

@[simp] theorem State.microsecondStep_cap (s : State) (lvl : Bool) :
    (s.microsecondStep lvl).cap = (s.captureStep lvl).cap := by
  rw [State.microsecondStep_eq, State.txStep_cap]

/-- The engine's step sets no flag but TX_DONE (R185). -/
theorem State.microsecondStep_lost (s : State) (lvl : Bool) :
    (s.microsecondStep lvl).host.lost = (s.captureStep lvl).host.lost := by
  obtain ⟨_, _, _, _, _, _, _, frame⟩ := (s.captureStep lvl).txStep_frame (s.tb.now + 1)
  rw [State.microsecondStep_eq, frame]

/-! ### The transition table of the session (R134) -/

/-- A microsecond that samples an accepted falling edge outside a capture starts one (R122). -/
theorem State.microsecondStep_starts {s : State} (hc : s.cap.capturing = false) (h : acceptedSample s false) :
    capturing (s.microsecondStep false) := by
  simp only [capturing, State.microsecondStep_cap, State.captureStep_cap_of_accepted h, State.acceptedEdge_falling _ hc,
    and_self]

/-- It sets LOST over a Ready sequence (R122). -/
theorem State.microsecondStep_loses {s : State} (hr : ready s) (h : acceptedSample s false) :
    (s.microsecondStep false).host.lost = true := by
  classical
  obtain ⟨notCapturing, isReady⟩ := hr
  rw [State.microsecondStep_lost, State.captureStep_host, if_pos h, State.acceptedEdge_falling _ notCapturing]
  simp [isReady]

/-- Any other microsecond outside a capture leaves the state of the session (R121, R134). -/
theorem State.microsecondStep_stays {s : State} {lvl : Bool} (hc : s.cap.capturing = false)
    (h : ¬ (acceptedSample s lvl ∧ lvl = false)) :
    (s.microsecondStep lvl).cap.capturing = false ∧ (s.microsecondStep lvl).cap.ready = s.cap.ready := by
  rw [State.microsecondStep_cap]
  by_cases ha : acceptedSample s lvl
  · cases lvl with
    | false => exact absurd ⟨ha, rfl⟩ h
    | true =>
      rw [State.captureStep_cap_of_accepted ha, State.acceptedEdge_rising _ hc]
      exact ⟨hc, rfl⟩
  · rw [State.captureStep_cap_of_not_accepted ha, if_neg fun ⟨_, isCapturing, _⟩ => by simp [hc] at isCapturing]
    exact ⟨hc, rfl⟩

/-- What ends a capture in a microsecond: an accepted edge whose duration finds the buffer full, or, without an accepted
edge, a tick after a silence (R123, R150). -/
abbrev State.CaptureEnds (s : State) (lvl : Bool) : Prop :=
  (acceptedSample s lvl ∧ s.cap.count.toNat = s.cfg.capacity ∧ s.PulseInRange (s.tb.now + 1)) ∨
  (¬ acceptedSample s lvl ∧ s.tickFires = true ∧ s.cfg.silenceGapUs < elapsed (s.tb.now + 1) s.cap.lastEdge ∧
    s.cfg.minValidCount < s.cap.count.toNat)

/-- A capture is Ready after such a microsecond, and goes on after any other (R134). -/
theorem State.microsecondStep_of_capturing {s : State} {lvl : Bool} (hc : capturing s)
    (hcount : s.cap.count.toNat ≤ s.cfg.capacity) [Decidable (s.CaptureEnds lvl)] :
    if s.CaptureEnds lvl then ready (s.microsecondStep lvl) else capturing (s.microsecondStep lvl) := by
  obtain ⟨isCapturing, notReady⟩ := hc
  simp only [ready, capturing, State.microsecondStep_cap]
  by_cases ha : acceptedSample s lvl
  · rw [State.captureStep_cap_of_accepted ha]
    obtain ⟨-, room, append⟩ | ⟨pulse, full, finalise⟩ | ⟨noPulse, drop⟩ :=
      State.acceptedEdge_capturing_cases (s.tb.now + 1) lvl isCapturing
    · have goesOn : ¬ s.CaptureEnds lvl := by
        rintro (⟨-, full, -⟩ | ⟨notAccepted, -⟩)
        · omega
        · exact notAccepted ha
      rw [append, if_neg goesOn]
      exact ⟨isCapturing, notReady⟩
    · rw [finalise, if_pos (.inl ⟨ha, Nat.le_antisymm hcount full, pulse⟩)]
      exact ⟨rfl, rfl⟩
    · have goesOn : ¬ s.CaptureEnds lvl := by
        rintro (⟨-, -, pulse⟩ | ⟨notAccepted, -⟩)
        · exact noPulse pulse
        · exact notAccepted ha
      rw [drop, if_neg goesOn]
      exact ⟨isCapturing, notReady⟩
  · rw [State.captureStep_cap_of_not_accepted ha]
    by_cases ends : s.tickFires = true ∧ s.SilenceEnds (s.tb.now + 1)
    · obtain ⟨fires, -, silence, long⟩ := ends
      rw [if_pos (.inr ⟨ha, fires, silence, long⟩ : s.CaptureEnds lvl), if_pos ⟨fires, isCapturing, silence, long⟩]
      exact ⟨rfl, rfl⟩
    · have goesOn : ¬ s.CaptureEnds lvl := by
        rintro (⟨accepted, -⟩ | ⟨-, fires, silence, long⟩)
        · exact ha accepted
        · exact ends ⟨fires, isCapturing, silence, long⟩
      rw [if_neg goesOn, if_neg ends]
      exact ⟨isCapturing, notReady⟩

/-- A transmit command leaves the capture session (R180). -/
theorem txStart_cap (useBuf : Bool) (slot : SlotNo) (s : State) : (txStart useBuf slot s).cap = s.cap := by
  cases refused : s.txStartRefused useBuf slot with
  | true => rw [txStart_refused _ _ _ refused]; rfl
  | false =>
    obtain ⟨_, _, _, _, _, _, _, frame⟩ := txStart_frame useBuf slot s refused
    rw [frame]

/-- COLLECT empties the session exactly where it takes a Ready sequence: not where the bank is full (R162). -/
theorem cmdCollect_session {s : State} (h : s.cap.ready = true → s.cap.capturing = false) :
    if ready s ∧ ¬ (s.cfg.minValidCount < s.cap.count.toNat ∧ s.bank.size.toNat = s.cfg.bankCap)
    then idle (cmdCollect s) else (cmdCollect s).cap = s.cap := by
  obtain ⟨notReady, none⟩ | ⟨isReady, short, discarded⟩ | ⟨-, long, isFull, full⟩ | ⟨isReady, -, notFull, stored⟩ :=
    cmdCollect_cases s
  · rw [none, if_neg (by simp [ready, notReady])]; rfl
  · rw [discarded, if_pos ⟨⟨h isReady, isReady⟩, fun keeps => Nat.not_lt.mpr short keeps.1⟩]
    exact ⟨rfl, rfl⟩
  · rw [full, if_neg fun takes => takes.2 ⟨long, isFull⟩]; rfl
  · rw [stored, if_pos ⟨⟨h isReady, isReady⟩, fun keeps => notFull keeps.2⟩]
    exact ⟨rfl, rfl⟩

/-- Settles O31: the microsecond by the state of the session, hardware reset, and each command. -/
theorem sessionTransitions : Obligations.SessionTransitions := by
  intro s hsession hcount
  refine ⟨fun lvl => ⟨fun isIdle => ?_, fun isReady => ?_, fun isCapturing => ?_⟩, fun rest hin => ?_, fun i t h => ?_⟩
  · obtain ⟨notCapturing, notReady⟩ := isIdle
    split
    · next falls =>
      obtain ⟨accepted, rfl⟩ := falls
      exact State.microsecondStep_starts notCapturing accepted
    · next other =>
      obtain ⟨stillNotCapturing, sameReady⟩ := State.microsecondStep_stays notCapturing other
      exact ⟨stillNotCapturing, sameReady.trans notReady⟩
  · obtain ⟨notCapturing, hready⟩ := isReady
    split
    · next falls =>
      obtain ⟨accepted, rfl⟩ := falls
      exact ⟨State.microsecondStep_starts notCapturing accepted, State.microsecondStep_loses ⟨notCapturing, hready⟩ accepted⟩
    · next other =>
      obtain ⟨stillNotCapturing, sameReady⟩ := State.microsecondStep_stays notCapturing other
      exact ⟨stillNotCapturing, sameReady.trans hready⟩
  · exact State.microsecondStep_of_capturing isCapturing hcount
  · exact ⟨(s.setInputs rest).driveRst true, by simp [step, nextEvent, hin, runInput], rfl, rfl⟩
  · have notCapturing : s.cap.ready = true → s.cap.capturing = false := by
      intro isReady
      obtain ⟨hc, -⟩ | ⟨-, hr⟩ | ⟨hc, -⟩ := hsession
      · exact hc
      · rw [isReady] at hr; cases hr
      · exact hc
    cases i with
    | collect => cases h; exact cmdCollect_session notCapturing
    | start => cases h; exact ⟨rfl, rfl⟩
    | reset => cases h; exact ⟨rfl, rfl⟩
    | wrCmd => trivial
    | txBank slot => cases h; exact txStart_cap _ _ _
    | txBuf => cases h; exact txStart_cap _ _ _
    | wrTxCount w => cases h; dsimp only; split <;> rfl
    | wrTxData w => cases h; dsimp only; split <;> rfl
    | _ => cases h; rfl

end Sys2Proof.Machine
end

section
/-! The capture session and the bank keep their invariant (spec/10_state.md R24 to R26, R30, spec/41_edge_capturer.md R127,
spec/43_signal_bank.md R160 to R162). -/

namespace Sys2Proof.Machine
open Sys2Proof.Claims

/-! ### Duration memories -/

/-- A memory that holds `n` durations holds any fewer. -/
theorem DurationsHeld.mono {cfg : Config.Params} {m : Memory Entry} {n k : Nat} (h : DurationsHeld cfg m n) (hk : k ≤ n) :
    DurationsHeld cfg m k := by
  obtain ⟨wf, inside, held⟩ := h
  exact ⟨wf, inside, fun i hi => held i (by omega)⟩

/-- Appending a duration in range (R123). -/
theorem DurationsHeld.append {cfg : Config.Params} {m : Memory Entry} {n : Nat} {v : Entry} (h : DurationsHeld cfg m n)
    (hn : n < cfg.capacity) (hv : DurationInRange cfg v) : DurationsHeld cfg (m.write n v) (n + 1) := by
  obtain ⟨wf, inside, held⟩ := h
  refine ⟨m.write_wf n v wf, fun x hx => ?_, fun i hi => ?_⟩
  · obtain rfl | hx := m.mem_write n v hx
    · exact hn
    · exact inside x hx
  · rw [Memory.lookup_write]
    split
    · exact ⟨v, rfl, hv⟩
    · exact held i (by omega)

/-- Copying `n` durations in range into an empty memory (R162). -/
theorem DurationsHeld.copy {cfg : Config.Params} {f : Nat → Entry} {n : Nat} (hn : n ≤ cfg.capacity)
    (hf : ∀ i < n, DurationInRange cfg (f i)) : DurationsHeld cfg (copyEntries f [] n) n := by
  refine ⟨copyEntries_wf f [] n .nil, fun x hx => ?_, fun i hi => ⟨f i, ?_, hf i hi⟩⟩
  · obtain hx | hx := mem_copyEntries f [] n x hx
    · omega
    · cases hx
  · rw [copyEntries_lookup, if_pos hi]

/-! ### The session -/

/-- The session's invariant is about the parameters and the session only. -/
theorem State.SessionInv.congr {s t : State} (h : s.SessionInv) (hcfg : t.cfg = s.cfg) (hcap : t.cap = s.cap) :
    t.SessionInv := by
  unfold State.SessionInv
  rw [hcfg, hcap]
  exact h

/-- A session reset leaves an Idle session (R130). -/
theorem State.SessionInv.sessionReset {s : State} (h : s.SessionInv) : s.sessionReset.SessionInv := by
  obtain ⟨-, -, stamps, -, -, held⟩ := h
  exact ⟨by simp, by simp, stamps, by simp, by simp, held.mono (by simp)⟩

/-- Finalisation of a capture that is long enough (R124). -/
theorem State.SessionInv.finalize {s : State} (h : s.SessionInv) (t : Word) (hlong : s.cfg.minValidCount < s.cap.count.toNat) :
    (s.finalize t).SessionInv := by
  obtain ⟨-, -, stamps, -, count, held⟩ := h
  exact ⟨by simp, by simp, stamps, fun _ => hlong, count, held⟩

/-- The three stamps of R125 keep the two timestamps equal (R127). -/
theorem State.SessionInv.stamped {s : State} (h : s.SessionInv) (t : Word) (lvl : Bool) :
    (s.setCap { s.cap with lastDb := t, lastEdge := t, lastLevel := lvl }).SessionInv := by
  obtain ⟨states, complete, -, long, count, held⟩ := h
  exact ⟨states, complete, rfl, long, count, held⟩

/-- The interval of an accepted edge, where it is in the pulse range, is a duration in range: it passed the debounce check
against the same timestamp (R120, R127). -/
theorem State.durationInRange_of_accepted {s : State} {t : Word} (hmax : s.cfg.maxPulseUs ≤ 65535)
    (stamps : s.cap.lastEdge = s.cap.lastDb) (accepts : s.acceptsEdge t = true) (pulse : s.PulseInRange t) :
    DurationInRange s.cfg (durationEntry (elapsed t s.cap.lastEdge)) := by
  obtain ⟨-, debounced⟩ := (s.acceptsEdge_iff t).mp accepts
  obtain ⟨lo, hi⟩ := pulse
  rw [← stamps] at debounced
  rw [DurationInRange, durationEntry_toNat _ (by omega)]
  exact ⟨debounced, lo, hi⟩

/-- Appending a duration in range to a buffer with room (R123). -/
theorem State.SessionInv.appendDuration {s : State} (h : s.SessionInv) (hc : s.cap.capturing = true)
    (hcap : s.cfg.capacity ≤ 65535) (room : s.cap.count.toNat < s.cfg.capacity) {d : Nat}
    (range : DurationInRange s.cfg (durationEntry d)) : (s.appendDuration d).SessionInv := by
  obtain ⟨states, complete, stamps, -, -, held⟩ := h
  have notReady : s.cap.ready = false := by simpa [hc] using states
  have hsucc : (s.appendDuration d).cap.count.toNat = s.cap.count.toNat + 1 :=
    BitVec.toNat_add_of_lt (by simp; omega)
  refine ⟨states, complete, stamps, fun isReady => absurd (notReady.symm.trans isReady) (by simp), ?_, ?_⟩
  · rw [hsucc]; exact room
  · rw [hsucc]; exact held.append room range

/-- An accepted edge keeps the session's invariant (R120 to R125). -/
theorem State.SessionInv.acceptedEdge {s : State} (h : s.SessionInv) (hlegal : s.cfg.Legal) {t : Word}
    (accepts : s.acceptsEdge t = true) (lvl : Bool) : (s.acceptedEdge t lvl).SessionInv := by
  obtain ⟨⟨-, hcap⟩, -, hmin, -, -, hmax, -⟩ := hlegal
  obtain ⟨-, -, stamps, -, -, held⟩ := id h
  have hcfg : (s.acceptedEdge t lvl).cfg = s.cfg := by rw [← s.edgeEvent_accepted t lvl accepts, s.edgeEvent_cfg]
  cases hc : s.cap.capturing with
  | false =>
    cases lvl with
    | true => exact (h.stamped t true).congr hcfg (by rw [State.acceptedEdge_rising t hc])
    | false =>
      rw [State.acceptedEdge_falling t hc]
      exact ⟨by simp, rfl, rfl, by simp, by simp, held.mono (by simp)⟩
  | true =>
    obtain ⟨pulse, room, append⟩ | ⟨-, full, finalise⟩ | ⟨-, drop⟩ := State.acceptedEdge_capturing_cases t lvl hc
    · have range := s.durationInRange_of_accepted hmax stamps accepts pulse
      exact ((h.appendDuration hc (by omega) room range).stamped t lvl).congr hcfg append
    · exact ((h.finalize t (by omega)).stamped t lvl).congr hcfg finalise
    · exact (h.stamped t lvl).congr hcfg drop

/-- The capture half of a microsecond keeps the session's invariant (R110). -/
theorem State.SessionInv.captureStep {s : State} (h : s.SessionInv) (hlegal : s.cfg.Legal) (lvl : Bool) :
    (s.captureStep lvl).SessionInv := by
  by_cases ha : acceptedSample s lvl
  · have accepts := ((acceptedSample_iff s lvl).mp ha).2
    refine (h.acceptedEdge hlegal accepts lvl).congr ?_ (State.captureStep_cap_of_accepted ha)
    rw [State.captureStep_cfg, ← s.edgeEvent_accepted _ lvl accepts, s.edgeEvent_cfg]
  · have hcap := State.captureStep_cap_of_not_accepted ha
    split at hcap
    · next ends =>
      obtain ⟨-, -, -, long⟩ := ends
      exact (h.finalize _ long).congr (s.captureStep_cfg lvl) hcap
    · exact h.congr (s.captureStep_cfg lvl) hcap

/-- COLLECT leaves the session as it was, or resets it (R162). -/
theorem cmdCollect_cap (s : State) : (cmdCollect s).cap = s.cap ∨ (cmdCollect s).cap = s.sessionReset.cap := by
  obtain ⟨-, none⟩ | ⟨-, -, discarded⟩ | ⟨-, -, -, full⟩ | ⟨-, -, -, stored⟩ := cmdCollect_cases s
  · rw [none]; exact .inl rfl
  · rw [discarded]; exact .inr rfl
  · rw [full]; exact .inl rfl
  · rw [stored]; exact .inr rfl

/-- Every instruction keeps the session's invariant (R134). -/
theorem Effect.sessionInv {s t : State} (e : Effect s t) (h : s.SessionInv) : t.SessionInv := by
  obtain ⟨hcfg, -⟩ := e.frame
  cases e with
  | start => exact h.sessionReset
  | reset => exact h.sessionReset
  | stop => exact h
  | collect =>
    obtain same | cleared := cmdCollect_cap s
    · exact h.congr hcfg same
    · exact h.sessionReset.congr hcfg cleared
  | transmit useBuf slot _ => exact h.congr hcfg (txStart_cap useBuf slot s)
  | _ => exact h.congr hcfg rfl

/-! ### The bank -/

/-- The bank's invariant is about the parameters, the number of filled slots and the slots. -/
theorem State.BankInv.congr {s t : State} (h : s.BankInv) (hcfg : t.cfg = s.cfg) (hsize : t.bank.size = s.bank.size)
    (hslots : t.bank.slots = s.bank.slots) : t.BankInv := by
  unfold State.BankInv
  rw [hcfg, hsize, hslots]
  exact h

/-- The slot above the filled ones has never been written. -/
theorem State.BankInv.slotAt_size {s : State} (h : s.BankInv) : (s.slotAt s.bank.size.toNat).dur = [] := by
  obtain ⟨-, -, below, -⟩ := h
  rw [State.slotAt, Memory.lookup_none below]
  rfl

/-- A filled slot is held (R161, R162). -/
theorem State.BankInv.slotHeld {s : State} (h : s.BankInv) {k : Nat} (hk : k < s.bank.size.toNat) :
    SlotHeld s.cfg k (s.slotAt k) := by
  obtain ⟨-, -, -, filled⟩ := h
  obtain ⟨slot, found, held⟩ := filled k hk
  rwa [State.slotAt, found]

/-- What a read of CapBuf gives below the count is a duration in range (R30, R127). -/
theorem State.SessionInv.capEntry_inRange {s : State} (h : s.SessionInv) {i : Nat} (hi : i < s.cap.count.toNat) :
    DurationInRange s.cfg (s.capEntry i) := by
  obtain ⟨-, -, -, -, -, -, -, held⟩ := h
  obtain ⟨v, found, range⟩ := held i hi
  rwa [State.capEntry, found]

/-- The slot that COLLECT fills is held: it is the Ready sequence (R162). -/
theorem State.collectedSlot_held {s : State} (hs : s.SessionInv) (hb : s.BankInv)
    (hlong : s.cfg.minValidCount < s.cap.count.toNat) :
    SlotHeld s.cfg s.bank.size.toNat (s.collectedSlot s.bank.size.toNat) := by
  obtain ⟨-, -, -, -, count, -⟩ := id hs
  refine ⟨rfl, hlong, count, ?_⟩
  rw [State.collectedSlot, hb.slotAt_size]
  exact .copy count fun i hi => hs.capEntry_inRange hi

/-- COLLECT keeps the bank's invariant (R162). -/
theorem State.BankInv.cmdCollect {s : State} (h : s.BankInv) (hs : s.SessionInv) (hcap : s.cfg.bankCap ≤ 255) :
    (cmdCollect s).BankInv := by
  obtain ⟨-, none⟩ | ⟨-, -, discarded⟩ | ⟨-, -, -, full⟩ | ⟨-, long, notFull, stored⟩ := cmdCollect_cases s
  · rw [none]; exact h
  · rw [discarded]; exact h
  · rw [full]; exact h
  · obtain ⟨size, wf, below, filled⟩ := id h
    have hsucc : (s.bank.size + 1).toNat = s.bank.size.toNat + 1 := BitVec.toNat_add_of_lt (by simp; omega)
    rw [stored]
    simp only [State.BankInv, hsucc]
    refine ⟨by omega, Memory.write_wf _ _ _ wf, fun x hx => ?_, fun k hk => ?_⟩
    · obtain rfl | hx := Memory.mem_write _ _ _ hx
      · exact Nat.lt_succ_self _
      · have := below x hx; omega
    · rw [Memory.lookup_write]
      split
      · next hk => subst hk; exact ⟨_, rfl, State.collectedSlot_held hs h long⟩
      · exact filled k (by omega)

/-- Every instruction keeps the bank's invariant (R160). -/
theorem Effect.bankInv {s t : State} (e : Effect s t) (h : s.BankInv) (hs : s.SessionInv) (hcap : s.cfg.bankCap ≤ 255) :
    t.BankInv := by
  cases e with
  | collect => exact h.cmdCollect hs hcap
  | transmit useBuf slot accepted =>
    obtain ⟨_, _, _, _, _, _, _, frame⟩ := txStart_frame useBuf slot s accepted
    rw [frame]; exact h
  | _ => exact h

end Sys2Proof.Machine
end

section
/-! The transmitter keeps its invariant (spec/10_state.md R27, spec/20_memory.md R72, spec/44_transmitter.md R180 to R186). What a
transmission is played from and by is kept apart from where it stands: the first is fixed at the start and no other event
changes it, the second is the engine's own. -/

namespace Sys2Proof.Machine
open Sys2Proof.Claims

/-- TX_COUNT and TxBuf within the buffer, and as many segments as it holds at most (R27, R180). -/
def State.TxStored (s : State) : Prop :=
  s.tx.count.toNat ≤ s.cfg.capacity ∧ s.tx.buf.wf ∧ (∀ x ∈ s.tx.buf, x.1 < s.cfg.capacity) ∧
  s.tx.n.toNat ≤ s.cfg.capacity

/-- What a start latches: a legal half-period, and a source that is still what it was (R72, R180). -/
def State.SourceLatched (s : State) : Prop :=
  1 ≤ s.tx.half.toNat ∧ s.tx.half.toNat ≤ 500000 ∧ (s.tx.useBuf = true → s.tx.n = s.tx.count) ∧
  (s.tx.useBuf = false → s.tx.slot < s.bank.size ∧ s.tx.n = (s.slotAt s.tx.slot.toNat).count)

/-- The engine stands in a segment that exists and is not empty, with its output, and its next event lies no further from
`t` than one half-period or one space (R183, R185). -/
def State.StandsIn (s : State) (t : Word) : Prop :=
  s.tx.idx.toNat < s.tx.n.toNat ∧ s.seq s.tx.idx.toNat ≠ 0 ∧ s.tx.irOut = (isMark s.tx.idx && !s.tx.k) ∧
  elapsed s.tx.next t ≤ (if isMark s.tx.idx then s.tx.half.toNat else (s.seq s.tx.idx.toNat).toNat)

/-- A transmission plays exactly where its source is latched, the engine stands in a segment, and its next event lies
ahead. -/
theorem State.playingInv_iff (s : State) :
    s.PlayingInv ↔ s.SourceLatched ∧ s.StandsIn s.tb.now ∧ 1 ≤ elapsed s.tx.next s.tb.now := by
  unfold State.PlayingInv State.SourceLatched State.StandsIn
  tauto

/-- The transmitter's invariant by its parts. -/
theorem State.transmitterInv_iff (s : State) :
    s.TransmitterInv ↔ s.TxStored ∧ (s.tx.busy = true → s.PlayingInv) ∧
      (s.tx.busy = false → s.tx.irOut = false ∧ s.tx.idx = s.tx.n) := by
  unfold State.TransmitterInv State.TxStored
  tauto

/-- COLLECT changes the session and the bank, and nothing else (R162). -/
theorem cmdCollect_frame (s : State) : ∃ cap bank, cmdCollect s = { s with cap := cap, bank := bank } := by
  obtain ⟨-, none⟩ | ⟨-, -, discarded⟩ | ⟨-, -, -, full⟩ | ⟨-, -, -, stored⟩ := cmdCollect_cases s
  · rw [none]; exact ⟨_, _, rfl⟩
  · rw [discarded]; exact ⟨_, _, rfl⟩
  · rw [full]; exact ⟨_, _, rfl⟩
  · rw [stored]; exact ⟨_, _, rfl⟩

/-! ### Events that leave the engine as it was -/

/-- `t` plays what `s` plays: the same parameters and engine, and every filled slot as it was (R72). -/
structure State.SamePlay (s t : State) : Prop where
  cfg : t.cfg = s.cfg
  engine : engineSame s t
  slots : s.SlotsKept t

/-- A slot number below the number of filled slots. -/
theorem State.SourceLatched.slot_lt {s : State} (h : s.SourceLatched) (hu : s.tx.useBuf = false) :
    s.tx.slot.toNat < s.bank.size.toNat := (h.2.2.2 hu).1

/-- The sequence played is the same (R183). -/
theorem State.SamePlay.seq {s t : State} (p : s.SamePlay t) (h : s.SourceLatched) (i : Nat) : t.seq i = s.seq i := by
  have engine := p.engine
  unfold engineSame at engine
  exact State.seq_congr_source (by rw [engine]) (by rw [engine]) (by rw [engine]) p.slots.epoch
    (fun hu => p.slots.slot _ (h.slot_lt hu)) i

/-- What the transmitter stores is the same. -/
theorem State.TxStored.samePlay {s t : State} (h : s.TxStored) (p : s.SamePlay t) : t.TxStored := by
  have engine := p.engine
  unfold engineSame at engine
  unfold State.TxStored
  rw [engine, p.cfg]
  exact h

/-- The latched source is the same: a filled slot that is played is kept (R72, R160). -/
theorem State.SourceLatched.samePlay {s t : State} (h : s.SourceLatched) (p : s.SamePlay t) : t.SourceLatched := by
  have engine := p.engine
  unfold engineSame at engine
  have kept := fun hu => p.slots.slot _ (h.slot_lt hu)
  obtain ⟨lo, hi, buf, slot⟩ := h
  unfold State.SourceLatched
  rw [engine]
  refine ⟨lo, hi, buf, fun hu => ?_⟩
  obtain ⟨filled, n⟩ := slot hu
  exact ⟨Nat.lt_of_lt_of_le filled p.slots.size, n.trans (congrArg Slot.count (kept hu).symm)⟩

/-- The engine stands where it stood. -/
theorem State.StandsIn.samePlay {s t : State} {now : Word} (h : s.StandsIn now) (hs : s.SourceLatched)
    (p : s.SamePlay t) : t.StandsIn now := by
  have engine := p.engine
  unfold engineSame at engine
  unfold State.StandsIn
  simp only [p.seq hs]
  rw [engine]
  exact h

/-- The transmitter's invariant passes to a state of the same time that plays the same. -/
theorem State.TransmitterInv.samePlay {s t : State} (h : s.TransmitterInv) (p : s.SamePlay t) (hnow : t.tb.now = s.tb.now) :
    t.TransmitterInv := by
  rw [State.transmitterInv_iff] at h ⊢
  have engine := p.engine
  unfold engineSame at engine
  obtain ⟨stored, busy, idle⟩ := h
  refine ⟨stored.samePlay p, fun hb => ?_, fun hb => ?_⟩
  · obtain ⟨latched, stands, ahead⟩ := (s.playingInv_iff).mp (busy (by rwa [engine] at hb))
    refine (t.playingInv_iff).mpr ⟨latched.samePlay p, ?_, ?_⟩
    · rw [hnow]; exact stands.samePlay latched p
    · rw [hnow, engine]; exact ahead
  · rw [engine] at hb ⊢
    exact idle hb

/-! ### The engine -/

/-- The number of an index below the end. -/
theorem index_toNat {j : Nat} {n : Entry} (hj : j < n.toNat) : (BitVec.ofNat 16 j).toNat = j := by
  have := n.isLt
  simp
  omega

/-- A time `d` after `t` lies `d` ahead of it. -/
theorem elapsed_add_left (t d : Word) : elapsed (t + d) t = d.toNat := by
  unfold elapsed
  rw [BitVec.add_comm, BitVec.add_sub_cancel]

/-- A time that is not `t` lies ahead of it. -/
theorem elapsed_pos {x t : Word} (h : t ≠ x) : 1 ≤ elapsed x t := by
  unfold elapsed
  bv_omega

/-- The state in which EnterSegment comes to rest in segment `j` at time `t` (R183). -/
def State.enteredAt (s : State) (t : Word) (j : Nat) : State :=
  s.setTx { s.tx with
    idx := BitVec.ofNat 16 j
    segStart := t
    irOut := decide (j % 2 = 0)
    k := if j % 2 = 0 then false else s.tx.k
    next := if j % 2 = 0 then t + s.tx.half else t + zext32 (s.seq j) }

/-- Moving the engine does not change the sequence it plays (R183). -/
theorem State.enteredAt_seq (s : State) (t : Word) (j i : Nat) : (s.enteredAt t j).seq i = s.seq i :=
  State.seq_congr (s := s) (t := s.enteredAt t j) rfl rfl rfl rfl rfl i

/-- Everything EnterSegment can do: come to rest in a segment that is not empty, or end the transmission (R183, R184). -/
theorem State.enterSegment_cases {s : State} (t : Word) (hidx : s.tx.idx.toNat ≤ s.tx.n.toNat) :
    (∃ j < s.tx.n.toNat, s.seq j ≠ 0 ∧ s.enterSegment t = s.enteredAt t j) ∨
    s.enterSegment t = { s with
      tx := { s.tx with
        idx := s.tx.n, segStart := if s.tx.idx = s.tx.n then s.tx.segStart else t, irOut := false, busy := false }
      host := { s.host with txDone := true } } := by
  classical
  by_cases left : ∃ j, s.tx.idx.toNat ≤ j ∧ j < s.tx.n.toNat ∧ s.seq j ≠ 0
  · obtain ⟨hij, hj, hne⟩ := Nat.find_spec left
    refine .inl ⟨Nat.find left, hj, hne, s.enterSegment_stops t _ hij hj hne fun i hi hlt => ?_⟩
    by_contra notEmpty
    exact Nat.find_min left hlt ⟨hi, by omega, notEmpty⟩
  · refine .inr (s.enterSegment_ends t hidx fun i hi hlt => ?_)
    by_contra notEmpty
    exact left ⟨i, hi, hlt, notEmpty⟩

/-- A segment that is not empty, just entered at the present time, is played (R183): its first event lies one half-period
or its duration ahead. -/
theorem State.enteredAt_playingInv {s : State} (latched : s.SourceLatched) {j : Nat}
    (hj : j < s.tx.n.toNat) (hne : s.seq j ≠ 0) : (s.enteredAt s.tb.now j).PlayingInv := by
  have duration : 1 ≤ (s.seq j).toNat := by
    have : (s.seq j).toNat ≠ 0 := fun h => hne (BitVec.eq_of_toNat_eq h)
    omega
  have half : 1 ≤ s.tx.half.toNat := latched.1
  rw [State.playingInv_iff]
  refine ⟨latched, ?_, ?_⟩
  · unfold State.StandsIn
    simp only [State.enteredAt_seq]
    simp only [State.enteredAt, State.setTx_tx, index_toNat hj, isMark]
    refine ⟨hj, hne, ?_, ?_⟩
    · by_cases mark : j % 2 = 0 <;> simp [mark]
    · by_cases mark : j % 2 = 0 <;> simp [mark, elapsed_add_left, zext32_toNat]
  · simp only [State.enteredAt, State.setTx_tx, State.setTx_tb]
    by_cases mark : j % 2 = 0
    · simpa [mark, elapsed_add_left] using half
    · simpa [mark, elapsed_add_left, zext32_toNat] using duration

/-- EnterSegment at the present time keeps the transmitter's invariant (R183, R184). -/
theorem State.enterSegment_transmitterInv {s : State} {t : Word} (hnow : s.tb.now = t) (stored : s.TxStored)
    (latched : s.SourceLatched) (busy : s.tx.busy = true) (hidx : s.tx.idx.toNat ≤ s.tx.n.toNat) :
    (s.enterSegment t).TransmitterInv := by
  rw [State.transmitterInv_iff]
  obtain ⟨j, hj, hne, entered⟩ | ended := State.enterSegment_cases t hidx
  · rw [entered]
    exact ⟨stored, fun _ => hnow ▸ State.enteredAt_playingInv latched hj hne,
      fun idle => absurd (busy.symm.trans idle) (by simp)⟩
  · rw [ended]
    exact ⟨stored, by simp, fun _ => ⟨rfl, rfl⟩⟩

/-- The engine's step at the present time, from a state whose next event is due no later than it may be (R185). -/
theorem State.txStep_transmitterInv {s : State} {t : Word} (hnow : s.tb.now = t) (stored : s.TxStored)
    (playing : s.tx.busy = true → s.SourceLatched ∧ s.StandsIn t)
    (idle : s.tx.busy = false → s.tx.irOut = false ∧ s.tx.idx = s.tx.n) : (s.txStep t).TransmitterInv := by
  unfold State.txStep
  cases hb : s.tx.busy with
  | false =>
    rw [if_pos (.inl rfl), State.transmitterInv_iff]
    exact ⟨stored, by simp [hb], idle⟩
  | true =>
    obtain ⟨latched, stands⟩ := playing hb
    by_cases due : t = s.tx.next
    · rw [if_neg (by simp [due])]
      obtain ⟨inside, notEmpty, -, -⟩ := stands
      split
      · next toggles =>
        obtain ⟨mark, -⟩ := toggles
        rw [State.transmitterInv_iff]
        refine ⟨stored, fun _ => (State.playingInv_iff _).mpr ⟨latched, ⟨inside, notEmpty, ?_, ?_⟩, ?_⟩, by simp [hb]⟩
        · simp [mark]
        · simp [mark, hnow, elapsed_add_left]
        · simpa [hnow, elapsed_add_left] using latched.1
      · have hsucc : (s.tx.idx + 1).toNat = s.tx.idx.toNat + 1 := by
          have := s.tx.n.isLt
          exact BitVec.toNat_add_of_lt (by simp; omega)
        refine State.enterSegment_transmitterInv ?_ stored latched hb ?_
        · exact hnow
        · simp only [State.setTx_tx, hsucc]; exact inside
    · rw [if_pos (.inr due), State.transmitterInv_iff]
      refine ⟨stored, fun _ => (State.playingInv_iff s).mpr ⟨latched, ?_, ?_⟩, idle⟩
      · rw [hnow]; exact stands
      · rw [hnow]; exact elapsed_pos due

/-- One microsecond brings the next event one microsecond nearer (R185). -/
theorem State.StandsIn.succ {s : State} {t : Word} (h : s.StandsIn t) (ahead : 1 ≤ elapsed s.tx.next t) :
    s.StandsIn (t + 1) := by
  have nearer := elapsed_succ s.tx.next t ahead
  obtain ⟨inside, notEmpty, output, bound⟩ := h
  exact ⟨inside, notEmpty, output, by omega⟩

/-- The capture half of a microsecond leaves the engine and what it plays (R110). -/
theorem State.captureStep_samePlay (s : State) (lvl : Bool) : s.SamePlay (s.captureStep lvl) where
  cfg := s.captureStep_cfg lvl
  engine := by unfold engineSame; rw [State.captureStep_tx]
  slots := .of_same (by simp) (by simp) (by simp)

/-- A microsecond keeps the transmitter's invariant (R110, R185). -/
theorem State.TransmitterInv.microsecondStep {s : State} (h : s.TransmitterInv) (lvl : Bool) :
    (s.microsecondStep lvl).TransmitterInv := by
  obtain ⟨stored, busy, idle⟩ := (s.transmitterInv_iff).mp h
  have same := s.captureStep_samePlay lvl
  rw [State.microsecondStep_eq]
  refine State.txStep_transmitterInv (s.captureStep_now lvl) (stored.samePlay same) (fun hb => ?_) ?_
  · rw [State.captureStep_tx] at hb
    obtain ⟨latched, stands, ahead⟩ := (s.playingInv_iff).mp (busy hb)
    exact ⟨latched.samePlay same, (stands.succ ahead).samePlay latched same⟩
  · rw [State.captureStep_tx]; exact idle

/-! ### Instructions -/

/-- A half-period of a legal carrier (R180, R187). -/
theorem halfPeriod_bounds {c : Word} (h0 : c.toNat ≠ 0) (h : c.toNat ≤ 500000) :
    1 ≤ (halfPeriod c).toNat ∧ (halfPeriod c).toNat ≤ 500000 := by
  rw [halfPeriod_toNat]
  refine ⟨(Nat.one_le_div_iff (by omega)).mpr (by omega), ?_⟩
  calc 1000000 / (2 * c.toNat) ≤ 1000000 / 2 := Nat.div_le_div_left (by omega) (by omega)
    _ = 500000 := rfl

/-- An accepted start keeps the transmitter's invariant (R180, R183). -/
theorem State.TransmitterInv.txStart {s : State} (h : s.TransmitterInv) (hbank : s.BankInv) {useBuf : Bool} {slot : SlotNo}
    (accepted : s.txStartRefused useBuf slot = false) : (txStart useBuf slot s).TransmitterInv := by
  have legal : ¬ _ := fun refused => absurd (accepted.symm.trans ((s.txStartRefused_iff useBuf slot).mpr refused)) (by simp)
  simp only [not_or, not_and, not_le, not_lt] at legal
  obtain ⟨-, filled, carrier, high⟩ := legal
  obtain ⟨⟨count, wf, inside, -⟩, -, -⟩ := (s.transmitterInv_iff).mp h
  obtain ⟨halfLo, halfHi⟩ := halfPeriod_bounds carrier high
  rw [txStart_accepted useBuf slot s accepted]
  refine State.enterSegment_transmitterInv rfl ⟨count, wf, inside, ?_⟩ ⟨halfLo, halfHi, ?_, ?_⟩ rfl (Nat.zero_le _)
  · cases useBuf with
    | true => exact count
    | false =>
      obtain ⟨-, -, bounded, -⟩ := hbank.slotHeld (filled rfl)
      exact bounded
  · rintro (rfl : useBuf = true); rfl
  · rintro (rfl : useBuf = false); exact ⟨filled rfl, rfl⟩

/-- An accepted write to an idle transmitter's count or buffer leaves it idle (R191, R193). -/
theorem State.TransmitterInv.setTx_of_idle {s : State} (h : s.TransmitterInv) {x : Transmitter} (hb : s.tx.busy = false)
    (hbusy : x.busy = s.tx.busy) (hout : x.irOut = s.tx.irOut) (hidx : x.idx = s.tx.idx) (hn : x.n = s.tx.n)
    (count : x.count.toNat ≤ s.cfg.capacity) (wf : x.buf.wf) (inside : ∀ y ∈ x.buf, y.1 < s.cfg.capacity) :
    (s.setTx x).TransmitterInv := by
  obtain ⟨⟨-, -, -, n⟩, -, idle⟩ := (s.transmitterInv_iff).mp h
  refine (State.transmitterInv_iff _).mpr ⟨⟨count, wf, inside, ?_⟩, ?_, fun _ => ?_⟩
  · rw [State.setTx_tx, hn]; exact n
  · simp [hbusy, hb]
  · simpa only [State.setTx_tx, hout, hidx, hn] using idle hb

/-- Every instruction keeps the transmitter's invariant (R72, R189). -/
theorem Effect.transmitterInv {s t : State} (e : Effect s t) (hlegal : s.cfg.Legal) (h : s.TransmitterInv)
    (hbank : s.BankInv) : t.TransmitterInv := by
  obtain ⟨⟨-, hcap⟩, ⟨-, hbankCap⟩, -⟩ := hlegal
  obtain ⟨hcfg, htb, -, -⟩ := e.frame
  obtain ⟨⟨count, wf, inside, -⟩, -, -⟩ := (s.transmitterInv_iff).mp h
  have slots := e.slotsKept hbank.1 hbankCap
  have hnow : t.tb.now = s.tb.now := by rw [htb]
  cases e with
  | txCount w idle fits =>
    refine h.setTx_of_idle idle rfl rfl rfl rfl ?_ wf inside
    rw [low16_toNat w (by omega)]
    exact fits
  | txData w idle room _ =>
    refine h.setTx_of_idle idle rfl rfl rfl rfl count (Memory.write_wf _ _ _ wf) fun y hy => ?_
    obtain rfl | hy := Memory.mem_write _ _ _ hy
    · exact room
    · exact inside y hy
  | transmit useBuf slot accepted => exact h.txStart hbank accepted
  | collect =>
    obtain ⟨_, _, frame⟩ := cmdCollect_frame s
    exact h.samePlay ⟨hcfg, by rw [frame]; rfl, slots⟩ hnow
  | _ => exact h.samePlay ⟨hcfg, rfl, slots⟩ hnow

end Sys2Proof.Machine
end

section
/-! Every event keeps the invariant of the whole block (spec/20_memory.md R68): the parts of `State.Inv` put together, for a
microsecond, an instruction, and a level of `rst`. -/

namespace Sys2Proof.Machine

/-- A write of IRQ_EN stores writable bits only, and no other instruction changes it (R32, R216). -/
theorem Effect.irqEn_masked {s t : State} (e : Effect s t) (h : s.host.irqEn &&& irqEnMask = s.host.irqEn) :
    t.host.irqEn &&& irqEnMask = t.host.irqEn := by
  cases e with
  | irqEn w => rw [State.setHost_host, BitVec.and_assoc, BitVec.and_self]
  | collect =>
    obtain ⟨_, _, frame⟩ := cmdCollect_frame s
    rw [frame]; exact h
  | transmit useBuf slot accepted =>
    obtain ⟨_, _, _, _, _, _, _, frame⟩ := txStart_frame useBuf slot s accepted
    rw [frame]; exact h
  | _ => exact h

/-- Every instruction keeps the invariant; the block is out of reset when it runs one (R261). -/
theorem Effect.inv {s t : State} (e : Effect s t) (hrst : s.env.rst = false) (h : s.Inv) : t.Inv := by
  obtain ⟨legal, ⟨tick, irqEn⟩, session, bank, transmitter, -⟩ := h
  obtain ⟨-, ⟨-, hbankCap⟩, -⟩ := id legal
  obtain ⟨hcfg, htb, hsameRst, -⟩ := e.frame
  refine ⟨by rwa [hcfg], ⟨by rwa [hcfg, htb], e.irqEn_masked irqEn⟩, e.sessionInv session,
    e.bankInv bank session hbankCap, e.transmitterInv legal transmitter bank, fun asserted => ?_⟩
  rw [hsameRst, hrst] at asserted
  cases asserted

/-- The tick divider stays below the period through a microsecond (R111). -/
theorem State.counterUpdate_tickDiv {s : State} (hlegal : s.cfg.Legal) (h : s.tb.tickDiv.toNat < s.cfg.tickPeriodUs) :
    s.counterUpdate.tb.tickDiv.toNat < s.cfg.tickPeriodUs := by
  obtain ⟨-, -, -, -, -, -, -, ⟨hperiod, hmax⟩, -⟩ := hlegal
  have hsucc : (s.tb.tickDiv + 1).toNat = s.tb.tickDiv.toNat + 1 := BitVec.toNat_add_of_lt (by simp; omega)
  cases fires : s.tickFires with
  | true =>
    have positive : 0 < s.cfg.tickPeriodUs := hperiod
    simpa [State.counterUpdate, fires] using positive
  | false =>
    have notPeriod : (s.tb.tickDiv + 1).toNat ≠ s.cfg.tickPeriodUs := by simpa [State.tickFires] using fires
    simp only [State.counterUpdate, fires, State.setTb_tb, Bool.false_eq_true, if_false, hsucc]
    omega

/-- A microsecond keeps the divider below the period and IRQ_EN as it was (R110, R111). -/
theorem State.TimeAndIrqInv.microsecondStep {s : State} (h : s.TimeAndIrqInv) (hlegal : s.cfg.Legal) (lvl : Bool) :
    (s.microsecondStep lvl).TimeAndIrqInv := by
  obtain ⟨tick, irqEn⟩ := h
  obtain ⟨_, _, _, captured⟩ := s.captureStep_frame lvl
  obtain ⟨_, _, _, _, _, _, _, played⟩ := (s.captureStep lvl).txStep_frame (s.tb.now + 1)
  rw [State.microsecondStep_eq, played, captured]
  exact ⟨State.counterUpdate_tickDiv hlegal tick, irqEn⟩

/-- A microsecond step out of reset keeps the invariant (R110). -/
theorem State.Inv.microsecondStep {s : State} (h : s.Inv) (hrst : s.env.rst = false) (lvl : Bool) :
    (s.microsecondStep lvl).Inv := by
  obtain ⟨legal, time, session, bank, transmitter, -⟩ := h
  have hbank : (s.microsecondStep lvl).bank = s.bank := by simp [State.microsecondStep_eq]
  have hcfg : (s.microsecondStep lvl).cfg = s.cfg := s.microsecondStep_cfg lvl
  refine ⟨by rwa [hcfg], time.microsecondStep legal lvl, ?_, bank.congr hcfg (by rw [hbank]) (by rw [hbank]),
    transmitter.microsecondStep lvl, fun asserted => ?_⟩
  · exact (session.captureStep legal lvl).congr (by rw [hcfg, State.captureStep_cfg]) (s.microsecondStep_cap lvl)
  · rw [State.microsecondStep_eq, State.txStep_env, State.captureStep_env, hrst] at asserted
    cases asserted

/-- A microsecond keeps the invariant, also while `rst` is asserted (R110, R261). -/
theorem State.Inv.passMicrosecond {s : State} (h : s.Inv) (lvl : Bool) : (s.passMicrosecond lvl).Inv := by
  unfold State.passMicrosecond
  split
  · exact h
  · next hrst => exact h.microsecondStep (by simpa using hrst) lvl

/-- A block of a legal configuration at its reset values meets the invariant (R260). -/
theorem State.inv_of_atReset {s : State} (hlegal : s.cfg.Legal) (h : s.AtReset) : s.Inv := by
  obtain ⟨-, -, -, -, -, -, -, ⟨-, hperiod⟩, hphase, -⟩ := id hlegal
  obtain ⟨htb, hcap, hbank, htx, hhost⟩ := id h
  have tick : (BitVec.ofNat 32 s.cfg.tickPhase).toNat = s.cfg.tickPhase := by simp; omega
  refine ⟨hlegal, ⟨?_, ?_⟩, ?_, ?_, ?_, fun _ => h⟩
  · rw [htb, TimeBase.reset, tick]; exact hphase
  · rw [hhost]; decide
  · simp [State.SessionInv, DurationsHeld, hcap, Session.reset]
  · simp [State.BankInv, hbank, SignalBank.reset]
  · simp [State.transmitterInv_iff, State.TxStored, htx, Transmitter.reset]

/-- What the environment records besides `rst` and the resets counted is no part of the invariant. -/
theorem State.Inv.setEnv {s : State} (h : s.Inv) {x : Environment} (hrst : x.rst = s.env.rst)
    (hepoch : x.epoch = s.env.epoch) : (s.setEnv x).Inv := by
  obtain ⟨legal, time, session, bank, transmitter, reset⟩ := h
  have same : s.SamePlay (s.setEnv x) := ⟨rfl, rfl, .of_same rfl rfl hepoch⟩
  exact ⟨legal, time, session, bank, transmitter.samePlay same rfl, fun asserted => reset (hrst.symm.trans asserted)⟩

/-- Taking an event off the environment's list keeps the invariant. -/
theorem State.Inv.setInputs {s : State} (h : s.Inv) (l : List Input) : (s.setInputs l).Inv := h.setEnv rfl rfl

/-- Answering a read keeps the invariant (R65). -/
theorem State.Inv.respond {s : State} (h : s.Inv) (v : Word) : (s.respond v).Inv := h.setEnv rfl rfl

/-- A microsecond with a free level of `ir_in` keeps the invariant (R112). -/
theorem freeMicrosecond_inv {s : State} (h : s.Inv) : (freeMicrosecond s).Inv := by
  have counted : (s.setEnv { s.env with freeCtr := s.env.freeCtr + 1 }).Inv := h.setEnv rfl rfl
  exact counted.passMicrosecond _

/-- A level of `rst` keeps the invariant: hardware reset establishes it anew (R260, R261). -/
theorem State.Inv.driveRst {s : State} (h : s.Inv) (level : Bool) : (s.driveRst level).Inv := by
  obtain ⟨-, asserted⟩ | ⟨-, -, released⟩ | ⟨-, -, unchanged⟩ := s.driveRst_cases level
  · rw [asserted]; exact State.inv_of_atReset h.1 ⟨rfl, rfl, rfl, rfl, rfl⟩
  · rw [released]; exact State.inv_of_atReset h.1 ⟨rfl, rfl, rfl, rfl, rfl⟩
  · rw [unchanged]; exact h

/-- A refused access keeps the invariant: it is a refused write, and a read that returns 0 (R240, R242). -/
theorem State.Inv.refuseAccess {s : State} (h : s.Inv) (hrst : s.env.rst = false) (write : Bool) :
    (s.refuseAccess write).Inv := by
  have raised : s.raiseAccErr.Inv := Effect.accErr.inv hrst h
  cases write with
  | true => exact raised
  | false => exact raised.respond 0

/-- Settles O16, by the kinds of event a step can take. -/
theorem everyStepKeepsTheInvariant : Obligations.EveryStepKeepsTheInvariant := by
  intro s t hinv hstep
  obtain ⟨-, rfl⟩ | ⟨lvl, rest, -, rfl⟩ | ⟨level, rest, -, rfl⟩ | ⟨a, rest, _, -, -, -, rfl⟩ |
    ⟨a, rest, _, _, -, -, hrst, -, rfl⟩ | ⟨_, rest, _, i, -, -, hrst, -, hexec⟩ := step_cases hstep
  · exact freeMicrosecond_inv hinv
  · exact (hinv.setInputs rest).passMicrosecond lvl
  · exact (hinv.setInputs rest).driveRst level
  · split
    · exact hinv.setInputs rest
    · exact (hinv.setInputs rest).respond 0
  · exact (hinv.setInputs rest).refuseAccess hrst a.write
  · exact (effect_of_exec hexec).inv hrst (hinv.setInputs rest)

end Sys2Proof.Machine
end

section
/-! The step is total but for an access outside the window (spec/20_memory.md R66, spec/60_exceptions.md R240, R247). -/

namespace Sys2Proof.Machine

/-- Every access at an offset of the window is answered: in reset, refused, or run (R210, R242, R261). -/
theorem accessAt_completes (a : BusAccess) (offset : BitVec 8) (s : State) : ∃ t, accessAt a offset s = .next t := by
  unfold accessAt
  split
  · exact ⟨_, rfl⟩
  · split
    · next i _ =>
      obtain ⟨t, completes, -⟩ := exec_effect i s
      exact ⟨t, completes⟩
    · exact ⟨_, rfl⟩

/-- An access of the window is answered (R60, R210). -/
theorem busAccess_of_inWindow {s : State} {a : BusAccess} (h : s.InWindow a) : ∃ t, busAccess a s = .next t := by
  have offset : windowOffset s.cfg.base a.addr = some (BitVec.ofNat 8 (a.addr - s.cfg.base)) := if_pos h
  unfold busAccess
  rw [offset]
  exact accessAt_completes a _ s

/-- An access outside the window is no access of the block (R66). -/
theorem busAccess_of_not_inWindow {s : State} {a : BusAccess} (h : ¬ s.InWindow a) :
    busAccess a s = .fault .outsideWindow := by
  have offset : windowOffset s.cfg.base a.addr = none := if_neg h
  unfold busAccess
  rw [offset]

/-- A step with an input listed runs that input (R68). -/
theorem step_of_inputs {s : State} {x : Input} {rest : List Input} (h : s.env.inputs = x :: rest) :
    step s = runInput x (s.setInputs rest) := by
  unfold step nextEvent
  rw [h]

/-- A step with no input listed is a free microsecond. -/
theorem step_of_no_inputs {s : State} (h : s.env.inputs = []) : step s = .next (freeMicrosecond s) := by
  unfold step nextEvent
  rw [h]

/-- Settles O14, by the event that comes next. -/
theorem stepStopsOnlyOutsideTheWindow : Obligations.StepStopsOnlyOutsideTheWindow := by
  intro s
  cases hin : s.env.inputs with
  | nil => exact .inl ⟨_, step_of_no_inputs hin⟩
  | cons x rest =>
    rw [step_of_inputs hin]
    cases x with
    | microsecond lvl => exact .inl ⟨_, rfl⟩
    | rstLevel level => exact .inl ⟨_, rfl⟩
    | access a =>
      by_cases inside : s.InWindow a
      · exact .inl (busAccess_of_inWindow (s := s.setInputs rest) inside)
      · exact .inr ⟨a, rest, rfl, inside, busAccess_of_not_inWindow (s := s.setInputs rest) inside⟩

end Sys2Proof.Machine
end

section
/-! A transmission in progress through every instruction (spec/20_memory.md R72, spec/44_transmitter.md R189). -/

namespace Sys2Proof.Machine
open Sys2Proof.Claims

/-- COLLECT writes no filled slot: the one it fills is the first above them (R160, R162). -/
theorem cmdCollect_slotAt {s : State} {k : Nat} (hk : k < s.bank.size.toNat) : (cmdCollect s).slotAt k = s.slotAt k := by
  obtain ⟨-, none⟩ | ⟨-, -, discarded⟩ | ⟨-, -, -, full⟩ | ⟨-, -, -, stored⟩ := cmdCollect_cases s
  · rw [none]; rfl
  · rw [discarded]; rfl
  · rw [full]; rfl
  · rw [State.slotAt_of_write (s := s) (by rw [stored]) (by rw [stored]), if_neg (Nat.ne_of_lt hk)]

/-- COLLECT leaves the sequence being played: TxBuf, or a slot that is filled (R72). -/
theorem cmdCollect_seq {s : State} (source : s.tx.useBuf = false → s.tx.slot < s.bank.size) (j : Nat) :
    (cmdCollect s).seq j = s.seq j := by
  obtain ⟨_, _, frame⟩ := cmdCollect_frame s
  exact State.seq_congr_source (by rw [frame]) (by rw [frame]) (by rw [frame]) (by rw [frame])
    (fun hu => cmdCollect_slotAt (source hu)) j

/-- Every effect but an accepted write of TX_COUNT or TX_DATA and an accepted start, which need an idle transmitter, leaves
the transmission in progress (R189, R191, R193, R180). -/
theorem Effect.transmissionKept {s t : State} (e : Effect s t) (busy : s.tx.busy = true)
    (source : s.tx.useBuf = false → s.tx.slot < s.bank.size) :
    engineSame s t ∧ (∀ j, t.seq j = s.seq j) ∧ (t.host.txDone = true → s.host.txDone = true) := by
  cases e with
  | txCount w idle => exact absurd (busy.symm.trans idle) (by simp)
  | txData w idle => exact absurd (busy.symm.trans idle) (by simp)
  | transmit useBuf slot accepted =>
    have refused := (s.txStartRefused_iff useBuf slot).mpr (.inl busy)
    exact absurd (refused.symm.trans accepted) (by simp)
  | collect =>
    obtain ⟨_, _, frame⟩ := cmdCollect_frame s
    exact ⟨by rw [frame]; rfl, cmdCollect_seq source, by rw [frame]; exact id⟩
  | clear w =>
    refine ⟨rfl, fun _ => rfl, fun done => ?_⟩
    obtain ⟨wasDone, -⟩ := (Bool.and_eq_true_iff).mp done
    exact wasDone
  | _ => exact ⟨rfl, fun _ => rfl, id⟩

/-- Settles O21: an instruction that answers has one of the effects of `Effect`. -/
theorem busyTransmissionIsUndisturbed : Obligations.BusyTransmissionIsUndisturbed :=
  fun _ _ _ busy source hexec => (effect_of_exec hexec).transmissionKept busy source

end Sys2Proof.Machine
end

section
/-! A Ready sequence through every event (spec/20_memory.md R69): an event that leaves READY at 1 leaves what a host reads of
the sequence. -/

namespace Sys2Proof.Machine
open Sys2Proof.Claims

/-- `t` holds the sequence that `s` holds: the state of the session, what describes the sequence, and CapBuf; no hardware
reset has come between (R69). -/
structure State.SequenceKept (s t : State) : Prop where
  capturing : t.cap.capturing = s.cap.capturing
  ready : t.cap.ready = s.cap.ready
  complete : t.cap.complete = s.cap.complete
  count : t.cap.count = s.cap.count
  totalMs : t.cap.totalMs = s.cap.totalMs
  buf : t.cap.buf = s.cap.buf
  epoch : t.env.epoch = s.env.epoch

/-- Where the session and the reset count are the same, the sequence is. -/
theorem State.SequenceKept.of_same {s t : State} (hcap : t.cap = s.cap) (hepoch : t.env.epoch = s.env.epoch) :
    s.SequenceKept t where
  capturing := by rw [hcap]
  ready := by rw [hcap]
  complete := by rw [hcap]
  count := by rw [hcap]
  totalMs := by rw [hcap]
  buf := by rw [hcap]
  epoch := hepoch

/-- A sequence kept by one event and by the next is kept by both. -/
theorem State.SequenceKept.trans {s t u : State} (h : s.SequenceKept t) (h' : t.SequenceKept u) : s.SequenceKept u where
  capturing := h'.capturing.trans h.capturing
  ready := h'.ready.trans h.ready
  complete := h'.complete.trans h.complete
  count := h'.count.trans h.count
  totalMs := h'.totalMs.trans h.totalMs
  buf := h'.buf.trans h.buf
  epoch := h'.epoch.trans h.epoch

/-- Taking an event off the environment's list keeps the sequence. -/
theorem State.setInputs_sequenceKept (s : State) (l : List Input) : s.SequenceKept (s.setInputs l) := .of_same rfl rfl

/-- A kept sequence reads the same at every index (R137). -/
theorem State.SequenceKept.capEntry {s t : State} (h : s.SequenceKept t) (i : Nat) : t.capEntry i = s.capEntry i := by
  simp only [State.capEntry, h.buf, h.epoch]

/-- An instruction that leaves READY at 1 keeps the sequence: START, RESET and a COLLECT that takes it leave READY at 0
(R131, R133, R162). -/
theorem Effect.sequenceKept {s t : State} (e : Effect s t) (isReady : t.cap.ready = true) : s.SequenceKept t := by
  obtain ⟨-, -, -, hepoch⟩ := e.frame
  cases e with
  | start => cases isReady
  | reset => cases isReady
  | stop => exact ⟨rfl, rfl, rfl, rfl, rfl, rfl, rfl⟩
  | collect =>
    obtain same | cleared := cmdCollect_cap s
    · exact .of_same same hepoch
    · rw [cleared] at isReady; cases isReady
  | transmit useBuf slot _ => exact .of_same (txStart_cap useBuf slot s) hepoch
  | _ => exact .of_same rfl rfl

/-- A microsecond that leaves READY at 1 keeps a Ready sequence: an accepted rising edge stamps its time only, and an
accepted falling edge, which starts a session, leaves READY at 0 (R121, R122, R151). -/
theorem State.microsecondStep_sequenceKept {s : State} {lvl : Bool} (hr : ready s)
    (isReady : (s.microsecondStep lvl).cap.ready = true) : s.SequenceKept (s.microsecondStep lvl) := by
  obtain ⟨notCapturing, -⟩ := hr
  have hepoch : (s.microsecondStep lvl).env.epoch = s.env.epoch := by simp [State.microsecondStep_eq]
  have hcap := s.microsecondStep_cap lvl
  by_cases accepts : acceptedSample s lvl
  · rw [State.captureStep_cap_of_accepted accepts] at hcap
    cases lvl with
    | true =>
      rw [State.acceptedEdge_rising _ notCapturing] at hcap
      exact ⟨by rw [hcap]; rfl, by rw [hcap]; rfl, by rw [hcap]; rfl, by rw [hcap]; rfl, by rw [hcap]; rfl,
        by rw [hcap]; rfl, hepoch⟩
    | false =>
      rw [hcap, State.acceptedEdge_falling _ notCapturing] at isReady
      cases isReady
  · rw [State.captureStep_cap_of_not_accepted accepts,
      if_neg fun ⟨_, isCapturing, _⟩ => by simp [notCapturing] at isCapturing] at hcap
    exact .of_same hcap hepoch

/-- A microsecond that leaves READY at 1 keeps a Ready sequence, also while `rst` is asserted (R261). -/
theorem State.passMicrosecond_sequenceKept {s : State} {lvl : Bool} (hr : ready s)
    (isReady : (s.passMicrosecond lvl).cap.ready = true) : s.SequenceKept (s.passMicrosecond lvl) := by
  unfold State.passMicrosecond at isReady ⊢
  split
  · exact .of_same rfl rfl
  · next running =>
    rw [if_neg running] at isReady
    exact State.microsecondStep_sequenceKept hr isReady

/-- A microsecond with a free level of `ir_in` that leaves READY at 1 keeps a Ready sequence (R112). -/
theorem freeMicrosecond_sequenceKept {s : State} (hr : ready s) (isReady : (freeMicrosecond s).cap.ready = true) :
    s.SequenceKept (freeMicrosecond s) := by
  have counted : s.SequenceKept (s.setEnv { s.env with freeCtr := s.env.freeCtr + 1 }) := .of_same rfl rfl
  exact counted.trans (State.passMicrosecond_sequenceKept hr isReady)

/-- A level of `rst` that is no hardware reset keeps the sequence (R261). -/
theorem State.driveRst_sequenceKept {s : State} (h : s.env.rst = false) : s.SequenceKept (s.driveRst false) := by
  obtain ⟨asserted, -⟩ | ⟨-, asserted, -⟩ | ⟨-, -, unchanged⟩ := s.driveRst_cases false
  · cases asserted
  · rw [h] at asserted; cases asserted
  · rw [unchanged]; exact .of_same rfl rfl

/-- Settles O23, by the kinds of event a step can take. -/
theorem readySequenceIsFrozen : Obligations.ReadySequenceIsFrozen := by
  intro s t hr hstep isReady noReset
  have kept : s.SequenceKept t := by
    obtain ⟨-, rfl⟩ | ⟨lvl, rest, -, rfl⟩ | ⟨level, rest, hin, rfl⟩ | ⟨a, rest, _, -, -, -, rfl⟩ |
      ⟨a, rest, _, _, -, -, -, -, rfl⟩ | ⟨_, rest, _, i, -, -, -, -, hexec⟩ := step_cases hstep
    · exact freeMicrosecond_sequenceKept hr isReady
    · exact (s.setInputs_sequenceKept rest).trans (State.passMicrosecond_sequenceKept hr isReady)
    · obtain ⟨rfl, hrst⟩ := noReset level rest hin
      exact (s.setInputs_sequenceKept rest).trans (State.driveRst_sequenceKept hrst)
    · split <;> exact .of_same rfl rfl
    · rw [State.refuseAccess_eq]; exact .of_same rfl rfl
    · exact (s.setInputs_sequenceKept rest).trans ((effect_of_exec hexec).sequenceKept isReady)
  obtain ⟨notCapturing, -⟩ := hr
  exact ⟨⟨kept.capturing.trans notCapturing, isReady⟩, kept.count, kept.totalMs, kept.complete, kept.capEntry⟩

end Sys2Proof.Machine
end

section
/-! The registers of this family (spec/20_memory.md R65, spec/44_transmitter.md R190 to R194, spec/45_host_interface.md R215 to
R221): TX_DATA, the registers that read a field or a parameter, and the writes that are idempotent. -/

namespace Sys2Proof.Machine
open Sys2Proof.Claims

/-- What TxBuf reads after one entry is written (R61). -/
theorem State.txEntry_of_write {s t : State} {k : Nat} {v : Entry} (hbuf : t.tx.buf = s.tx.buf.write k v)
    (hepoch : t.env.epoch = s.env.epoch) (i : Nat) : t.txEntry i = if i = k then v else s.txEntry i := by
  simp only [State.txEntry, hbuf, hepoch, Memory.lookup_write]
  split <;> rfl

/-- A write of TX_DATA that is accepted (R193). -/
theorem exec_wrTxData_accepted {w : Word} {s : State} (idle : s.tx.busy = false)
    (room : s.tx.index.toNat < s.cfg.capacity) (fits : w.toNat < 65536) :
    exec (.wrTxData w) s = .next (s.setTx { s.tx with
      buf := s.tx.buf.write s.tx.index.toNat (low16 w), index := s.tx.index + 1 }) := by
  have accepted : ¬ (s.tx.busy = true ∨ s.cfg.capacity ≤ s.tx.index.toNat ∨ high16 w ≠ 0) := by
    simp [idle, room, (high16_eq_zero w).mpr fits]
  exact congrArg Host.Outcome.next (if_neg accepted)

/-- Any other write of TX_DATA is refused (R193, R240). -/
theorem exec_wrTxData_refused {w : Word} {s : State}
    (h : ¬ (s.tx.busy = false ∧ s.tx.index.toNat < s.cfg.capacity ∧ w.toNat < 65536)) :
    exec (.wrTxData w) s = .next s.raiseAccErr := by
  have refused : s.tx.busy = true ∨ s.cfg.capacity ≤ s.tx.index.toNat ∨ high16 w ≠ 0 := by
    rw [← high16_eq_zero, ← Bool.not_eq_true, ← Nat.not_le] at h
    tauto
  exact congrArg Host.Outcome.next (if_pos refused)

/-- Settles O45, by whether the write is accepted; the read is masked by CAPACITY as it stands. -/
theorem txDataReadAndWrite : Obligations.TxDataReadAndWrite := by
  intro w s
  refine ⟨?_, rfl⟩
  split
  · next accepted =>
    obtain ⟨idle, room, fits⟩ := accepted
    have stored := State.txEntry_of_write (s := s) (t := s.setTx { s.tx with
      buf := s.tx.buf.write s.tx.index.toNat (low16 w), index := s.tx.index + 1 }) rfl rfl
    refine ⟨_, exec_wrTxData_accepted idle room fits, rfl, ?_, fun i hi => ?_⟩
    · rw [stored, if_pos rfl, low16_eq]
    · rw [stored, if_neg hi]
  · next refused => exact ⟨_, exec_wrTxData_refused refused, rfl⟩

/-- Settles O39: each of these reads answers its field, widened to the bus. -/
theorem fieldRegistersRead : Obligations.FieldRegistersRead := fun _ =>
  ⟨rfl, rfl, rfl, rfl, rfl, rfl, rfl, rfl, rfl, rfl, rfl, rfl, rfl, rfl, rfl⟩

/-- Settles O40: each of these reads answers its parameter. -/
theorem parameterRegistersRead : Obligations.ParameterRegistersRead := fun _ =>
  ⟨rfl, rfl, rfl, rfl, rfl, rfl, rfl, rfl⟩

/-- Clearing the same sticky flags twice clears them once (R215). -/
theorem State.clearSticky_clearSticky (s : State) (w : Word) : (s.clearSticky w).clearSticky w = s.clearSticky w := by
  have once : ∀ (flag : Bool) (b : Nat), clearedBy (clearedBy flag w b) w b = clearedBy flag w b := fun flag b => by
    rw [clearedBy, clearedBy, Bool.and_assoc, Bool.and_self]
  simp [State.clearSticky, once]

/-- A write of TX_COUNT is accepted or refused, and then it is again: it changes neither condition (R191). -/
theorem exec_wrTxCount_idempotent (w : Word) (s : State) :
    ∃ t, exec (.wrTxCount w) s = .next t ∧ exec (.wrTxCount w) t = .next t := by
  refine ⟨_, rfl, congrArg Host.Outcome.next ?_⟩
  by_cases refused : s.tx.busy = true ∨ s.cfg.capacity < w.toNat
  · rw [if_pos refused]
    exact if_pos refused
  · rw [if_neg refused]
    exact if_neg refused

/-- Settles O46, register by register: what a write stores is a function of the value written alone, but for STATUS and
TX_COUNT. -/
theorem idempotentWrites : Obligations.IdempotentWrites := by
  intro w s i hi
  simp only [List.mem_cons, List.not_mem_nil, or_false] at hi
  obtain rfl | rfl | rfl | rfl | rfl | rfl | rfl | rfl := hi
  · exact ⟨_, rfl, congrArg Host.Outcome.next (s.clearSticky_clearSticky w)⟩
  on_goal 6 => exact exec_wrTxCount_idempotent w s
  all_goals exact ⟨_, rfl, rfl⟩

end Sys2Proof.Machine
end

section
/-! The encoding: an item's fields, its bits, and the decoder as the inverse of `encode` (spec/30_encoding.md R80 to R87,
log entry 6). -/

namespace Sys2Proof
open Sys2Proof.Machine Sys2Proof.Claims

/-- An access code is put together from its direction and its offset (R81). -/
@[simp] theorem busCode_codeWrite_codeOffset (code : BitVec 9) : busCode (codeWrite code) (codeOffset code) = code := by
  apply BitVec.eq_of_getLsbD_eq
  intro i hi
  rw [busCode, BitVec.getLsbD_append]
  split
  · next low => simp [codeOffset, low]
  · next high =>
    have top : i = 8 := by omega
    simp [top, codeWrite]

/-- An access code as its two fields (R81). -/
theorem code_eq_of_codeWrite {code : BitVec 9} {write : Bool} (h : codeWrite code = write) :
    busCode write (BitVec.ofNat 8 (codeOffset code).toNat) = code := by
  rw [BitVec.ofNat_toNat, BitVec.setWidth_eq, ← h, busCode_codeWrite_codeOffset]

theorem commandWord_toNat (op arg : BitVec 8) : (commandWord op arg).toNat = arg.toNat * 256 + op.toNat := by
  rw [commandWord, BitVec.toNat_append, BitVec.toNat_append, ← Nat.shiftLeft_add_eq_or_of_lt op.isLt]
  simp [Nat.shiftLeft_eq]

@[simp] theorem commandOp_commandWord (op arg : BitVec 8) : commandOp (commandWord op arg) = op := by
  apply BitVec.eq_of_toNat_eq
  rw [commandOp_toNat, commandWord_toNat]
  omega

@[simp] theorem commandArg_commandWord (op arg : BitVec 8) : commandArg (commandWord op arg) = arg := by
  apply BitVec.eq_of_toNat_eq
  rw [commandArg_toNat, commandWord_toNat]
  omega

@[simp] theorem commandRsv_commandWord (op arg : BitVec 8) : commandRsv (commandWord op arg) = 0#16 := by
  apply BitVec.eq_of_toNat_eq
  rw [commandRsv_toNat, commandWord_toNat, BitVec.toNat_ofNat]
  omega

/-- What a bus item's bits carry of its `wdata`: of a read's, nothing (log entry 6). -/
def busData (code : BitVec 9) (wdata : Word) : Word := if codeWrite code then wdata else 0#32

/-- The item as its bits carry it. -/
def Item.carried : Item → Item
  | .bus code wdata => .bus code (busData code wdata)
  | .cmd word => .cmd word

theorem carried_encode (i : Instr) : (encode i).carried = encode i := by
  cases i <;> rfl

/-- The fields of the bits of a write: the code is below bit 9, zeros follow, and `wdata` begins at bit 16. -/
theorem writeBits_fields (code : BitVec 9) (wdata : Word) :
    code.toNat + 2 ^ 16 * wdata.toNat < 2 ^ 48 ∧ (code.toNat + 2 ^ 16 * wdata.toNat) / 2 ^ 9 % 2 ^ 7 = 0 ∧
    BitVec.ofNat 9 (code.toNat + 2 ^ 16 * wdata.toNat) = code ∧
    BitVec.ofNat 32 ((code.toNat + 2 ^ 16 * wdata.toNat) / 2 ^ 16) = wdata := by
  have hcode := code.isLt
  have hdata := wdata.isLt
  refine ⟨by omega, by omega, BitVec.eq_of_toNat_eq ?_, BitVec.eq_of_toNat_eq ?_⟩ <;>
    rw [BitVec.toNat_ofNat] <;> omega

/-- Reading an item from its bits gives what they carry of it, at each of the three widths: a write, a read and a command
word. -/
theorem itemOfWord_wordOfItem (item : Item) :
    itemOfWord (wordOfItem item).1 (wordOfItem item).2 = some item.carried := by
  cases item with
  | bus code wdata =>
    cases dir : codeWrite code with
    | true =>
      obtain ⟨fits, gap, codeBits, dataBits⟩ := writeBits_fields code wdata
      simp only [wordOfItem, dir, if_true, itemOfWord, Item.carried, busData]
      rw [if_neg (by decide), if_pos ⟨fits, gap⟩, codeBits, dataBits]
    | false =>
      obtain ⟨fits, gap, codeBits, dataBits⟩ := writeBits_fields code 0#32
      simp only [BitVec.toNat_zero, Nat.mul_zero, Nat.add_zero] at fits gap codeBits dataBits
      simp only [wordOfItem, dir, Bool.false_eq_true, if_false, itemOfWord, Item.carried, busData]
      rw [if_neg (by decide), if_pos ⟨fits, gap⟩, codeBits, dataBits]
  | cmd word => simp [itemOfWord, wordOfItem, Item.carried, word.isLt]

theorem itemOfWord_encodeWord (i : Instr) : itemOfWord (encodeWord i).1 (encodeWord i).2 = some (encode i) := by
  rw [encodeWord, itemOfWord_wordOfItem, carried_encode]

/-- Decoding the item of an instruction gives the instruction back (R84, R85). -/
theorem decodeItem_encode (i : Instr) : decodeItem (encode i) = .ok i := by
  cases i with
  | txBank slot => simp [encode, decodeItem, decodeCmd]
  | _ => rfl

/-- Settles O1: the bits give the item back, and the item the instruction. -/
theorem decodeEncodeRoundTrip : Obligations.DecodeEncodeRoundTrip := by
  intro i
  simp only [decodeTableWord, itemOfWord_encodeWord, decodeItem_encode]

/-- A row of the read column of R84 is the encoding of its instruction. -/
theorem encode_of_decodeRead {o : Nat} {i : Instr} (h : decodeRead o = .ok i) :
    encode i = .bus (busCode false (BitVec.ofNat 8 o)) 0#32 := by
  unfold decodeRead at h
  split at h <;> cases h <;> rfl

/-- A row of the write column of R84 is the encoding of its instruction. -/
theorem encode_of_decodeWrite {o : Nat} {wdata : Word} {i : Instr} (h : decodeWrite o wdata = .ok i) :
    encode i = .bus (busCode true (BitVec.ofNat 8 o)) wdata := by
  unfold decodeWrite at h
  split at h <;> cases h <;> rfl

/-- The decoder of format BUS sees no more of `wdata` than the bits carry. -/
theorem decodeBus_busData (code : BitVec 9) (wdata : Word) :
    decodeBus code (busData code wdata) = decodeBus code wdata := by
  cases dir : codeWrite code <;> simp [decodeBus, busData, dir]

/-- Format BUS decodes to the instruction whose encoding it is, and to no other (R84). -/
theorem decodeBus_eq_ok_iff {code : BitVec 9} {wdata : Word} {i : Instr} :
    decodeBus code wdata = .ok i ↔ encode i = .bus code (busData code wdata) := by
  constructor
  · intro h
    unfold decodeBus at h
    split at h
    · cases h
    split at h
    · cases h
    split at h
    · next dir => rw [encode_of_decodeWrite h, code_eq_of_codeWrite dir, busData, if_pos dir]
    · next dir =>
      rw [encode_of_decodeRead h, code_eq_of_codeWrite (Bool.not_eq_true _ ▸ dir), busData, if_neg dir]
  · intro h
    have back := decodeItem_encode i
    rwa [h, decodeItem, decodeBus_busData] at back

/-- The map of R84 lists the bus items that are encodings: each of its rows is one, and the row of each instruction is found
by going down the list. -/
theorem mem_accessCodes_iff {code : BitVec 9} {wdata : Word} {i : Instr} :
    (code, i) ∈ accessCodes wdata ↔ encode i = .bus code (busData code wdata) := by
  constructor
  · have listed : ∀ row ∈ accessCodes wdata, encode row.2 = .bus row.1 (busData row.1 wdata) := by
      simp only [accessCodes, List.forall_mem_cons, List.not_mem_nil, false_implies, implies_true, and_true]
      and_intros <;> rfl
    exact listed (code, i)
  · intro h
    unfold accessCodes
    cases i <;> cases h <;> repeat constructor

/-- Settles O2: the decoder and the map both name the instruction whose encoding the access is. -/
theorem accessCodeMap : Obligations.AccessCodeMap := fun _ _ _ =>
  decodeBus_eq_ok_iff.trans mem_accessCodes_iff.symm

/-- Settles O3: each word is the bits of the instruction it stands for. -/
theorem familyWordsDecode : Obligations.FamilyWordsDecode :=
  ⟨decodeEncodeRoundTrip .rdStatus, decodeEncodeRoundTrip (.wrStatus 0x00100000), decodeEncodeRoundTrip .rdCapData,
    decodeEncodeRoundTrip .rdBankData, decodeEncodeRoundTrip (.wrTxData 26), decodeEncodeRoundTrip .rdParamTickPeriodUs,
    decodeEncodeRoundTrip .collect, decodeEncodeRoundTrip (.txBank 2)⟩

end Sys2Proof
end

section
/-! The CMD register: which command words are legal, and what a write of each does (spec/30_encoding.md R85, R86,
spec/45_host_interface.md R217). -/

namespace Sys2Proof.Machine
open Sys2Proof.Claims

/-- The illegal words of R86 by their fields RSV, OP and ARG, as the decoder and the dispatch look at them. -/
theorem illegalCommand_iff_fields (w : Word) :
    illegalCommand w ↔
      commandRsv w ≠ 0#16 ∨ 6 < (commandOp w).toNat ∨ (commandArg w ≠ 0#8 ∧ commandOp w ≠ 5#8) := by
  simp only [illegalCommand, ne_eq, ← BitVec.toNat_inj, commandRsv_toNat, commandArg_toNat, commandOp_toNat,
    BitVec.toNat_ofNat, Nat.zero_mod]
  omega

/-- An illegal word is no command: the dispatch refuses it (R217, R241). -/
theorem runCommand_of_illegal {w : Word} (h : illegalCommand w) (s : State) : runCommand w s = s.raiseCmdErr :=
  if_pos ((illegalCommand_iff_fields w).mp h)

/-- An illegal word does not decode (R86). -/
theorem decodeCmd_of_illegal {w : Word} (h : illegalCommand w) (i : Instr) : decodeCmd w ≠ .ok i := by
  rw [illegalCommand_iff_fields] at h
  intro decoded
  unfold decodeCmd at decoded
  split at decoded
  · cases decoded
  split at decoded
  · cases decoded
  split at decoded
  · cases decoded
  next rsv op arg => exact h.elim rsv fun h => h.elim op arg

/-- A legal word decodes to a command, and the dispatch performs that command (R85, R217): one case for each OP from 0 to 6. -/
theorem decodeCmd_of_legal {w : Word} (h : ¬ illegalCommand w) :
    ∃ i, decodeCmd w = .ok i ∧ ∀ s, exec (.wrCmd w) s = exec i s := by
  rw [illegalCommand_iff_fields] at h
  have dispatch : ∀ s, exec (.wrCmd w) s = .next (runCommand w s) := fun _ => rfl
  simp only [dispatch, runCommand, if_neg h]
  simp only [not_or] at h
  obtain ⟨rsv, op, arg⟩ := h
  unfold decodeCmd
  rw [if_neg rsv, if_neg op, if_neg arg]
  have atMostSix : (commandOp w).toNat ≤ 6 := Nat.not_lt.mp op
  generalize (commandOp w).toNat = n at atMostSix ⊢
  interval_cases n <;> exact ⟨_, rfl, fun _ => rfl⟩

/-- A command written to CMD does what the command does (R217). -/
theorem exec_wrCmd_of_decodeCmd {w : Word} {i : Instr} (h : decodeCmd w = .ok i) (s : State) :
    exec (.wrCmd w) s = exec i s := by
  by_cases illegal : illegalCommand w
  · exact absurd h (decodeCmd_of_illegal illegal i)
  · obtain ⟨j, decoded, runs⟩ := decodeCmd_of_legal illegal
    cases h.symm.trans decoded
    exact runs s

/-- Settles O5: the decoder and the dispatch refuse an illegal word alike. -/
theorem illegalCommandWordsRaiseCmdError : Obligations.IllegalCommandWordsRaiseCmdError := fun _ s h =>
  ⟨decodeCmd_of_illegal h, congrArg Host.Outcome.next (runCommand_of_illegal h s)⟩

/-- The word of TX_BANK for slot `k`, as R85 writes it. -/
theorem txBankWord_eq (k : SlotNo) : 0x00000005 ||| (k.setWidth 32 <<< 8) = commandWord 5#8 k := by
  revert k
  decide

/-- The command word of an instruction, written to CMD, decodes to the instruction and does what it does (R85). -/
theorem command_runs {i : Instr} {w : Word} (h : encode i = .cmd w) (s : State) :
    decodeCmd w = .ok i ∧ exec (.wrCmd w) s = exec i s := by
  have decoded : decodeCmd w = .ok i := by
    have back := decodeItem_encode i
    rwa [h] at back
  exact ⟨decoded, exec_wrCmd_of_decodeCmd decoded s⟩

/-- Settles O4: a word decodes exactly where it is legal; each word of the map is the encoding of its command. -/
theorem commandWordsRunTheirCommands : Obligations.CommandWordsRunTheirCommands := by
  refine ⟨fun w => ⟨fun ⟨i, decoded⟩ illegal => decodeCmd_of_illegal illegal i decoded, fun legal => ?_⟩, fun s => ?_⟩
  · obtain ⟨i, decoded, -⟩ := decodeCmd_of_legal legal
    exact ⟨i, decoded⟩
  · refine ⟨command_runs (i := .nop) rfl s, command_runs (i := .start) rfl s, command_runs (i := .stop) rfl s,
      command_runs (i := .reset) rfl s, command_runs (i := .collect) rfl s, fun k => ?_, command_runs (i := .txBuf) rfl s,
      rfl, rfl, rfl, rfl⟩
    rw [txBankWord_eq]
    exact command_runs rfl s

end Sys2Proof.Machine
end

section
/-! The step that takes an access placed as the next event (spec/30_encoding.md R80, spec/45_host_interface.md R210, R217,
log entry 6). -/

namespace Sys2Proof.Machine

/-- Outside reset, a step takes the access at the head of the list and runs what it decodes to (R210). -/
theorem step_of_access {s : State} {a : BusAccess} {rest : List Input} {offset : BitVec 8} {i : Instr}
    (head : s.env.inputs = .access a :: rest) (running : s.env.rst = false)
    (addr : a.addr = s.cfg.base + offset.toNat) (decoded : decodeAccess a.write offset a.size a.wdata = .ok i) :
    step s = exec i (s.setInputs rest) := by
  simp only [step, nextEvent, head, runInput, busAccess, State.setInputs_cfg, addr, windowOffset_of_offset, accessAt,
    State.setInputs_rst, running, decoded, Bool.false_eq_true, if_false]

/-- Taking a placed item off the list gives the state it was placed in, outside reset. -/
theorem State.placeItem_setInputs {s : State} (running : s.env.rst = false) (item : Item) :
    (s.placeItem item).setInputs s.env.inputs = s := by
  show s.setEnv { s.env with rst := false } = s
  rw [← running]
  rfl

/-- A placed item runs the instruction it decodes to: an access by its code, a command word by its write to CMD (R80). -/
theorem step_placeItem {s : State} (running : s.env.rst = false) {item : Item} {i : Instr}
    (decoded : decodeItem item = .ok i) : step (s.placeItem item) = exec i s := by
  cases item with
  | bus code wdata =>
    have access : decodeAccess (codeWrite code) (codeOffset code) 4 wdata = .ok i := by
      rwa [decodeAccess, if_neg (by decide), busCode_codeWrite_codeOffset]
    have runs := step_of_access (s := s.placeItem (.bus code wdata)) rfl rfl rfl access
    rwa [State.placeItem_setInputs running] at runs
  | cmd word =>
    have access : decodeAccess true 0x08#8 4 word = .ok (.wrCmd word) := rfl
    have runs := step_of_access (s := s.placeItem (.cmd word)) rfl rfl rfl access
    rw [State.placeItem_setInputs running] at runs
    exact runs.trans (exec_wrCmd_of_decodeCmd decoded s)

/-- Settles O7: the bits of an instruction place its item, and its item decodes to it. -/
theorem stepRunsPlacedInstruction : Obligations.StepRunsPlacedInstruction := by
  intro i s running
  rw [State.withFetchWord, itemOfWord_encodeWord]
  exact step_placeItem running (decodeItem_encode i)

end Sys2Proof.Machine
end

section
/-! The pointer, carrier and count registers on a write (spec/30_encoding.md R83, spec/41_edge_capturer.md R136,
spec/43_signal_bank.md R166, spec/44_transmitter.md R190 to R192). -/

namespace Sys2Proof.Machine

/-- Settles O43: each of these registers stores its field of `wdata`, the low bits of the word. -/
theorem pointerRegistersWrite : Obligations.PointerRegistersWrite := by
  intro w s
  simp only [← low16_eq, ← low8_eq]
  exact ⟨rfl, rfl, rfl, rfl, rfl⟩

/-- Settles O44, by whether the write is accepted. -/
theorem txCountWrite : Obligations.TxCountWrite := by
  intro w s
  rw [← low16_eq]
  split
  · next accepted =>
    have notRefused : ¬ (s.tx.busy = true ∨ s.cfg.capacity < w.toNat) := by simpa using accepted
    exact congrArg Host.Outcome.next (if_neg notRefused)
  · next refused =>
    have isRefused : s.tx.busy = true ∨ s.cfg.capacity < w.toNat := by
      rw [← Bool.not_eq_true, ← Nat.not_lt, ← not_or, not_not] at refused
      exact refused
    exact congrArg Host.Outcome.next (if_pos isRefused)

end Sys2Proof.Machine
end

section
/-! The time base through one microsecond and through a run of them (spec/40_timebase.md R110, R111): the order of a
microsecond, what moves the counter, and the steps in which ticks fire. -/

namespace Sys2Proof.Machine
open Sys2Proof.Claims

/-- The counter update fires a tick where the divider reaches the period (R111). -/
theorem State.tickFires_iff (s : State) : s.tickFires = true ↔ (s.tb.tickDiv + 1).toNat = s.cfg.tickPeriodUs :=
  decide_eq_true_iff

/-- The input sample records the level, and an edge acts after that (R112, R113). -/
theorem State.sampleInput_records (s : State) (lvl : Bool) :
    s.sampleInput lvl =
      if lvl = s.tb.inPrev then s.setTb { s.tb with inPrev := lvl }
      else (s.setTb { s.tb with inPrev := lvl }).edgeEvent s.tb.now lvl := by
  unfold State.sampleInput
  split
  · next same => rw [same]; rfl
  · rfl

@[simp] theorem State.sampleInput_now (s : State) (lvl : Bool) : (s.sampleInput lvl).tb.now = s.tb.now := by
  obtain ⟨_, _, _, frame⟩ := s.sampleInput_frame lvl
  rw [frame]

/-- The capture half of a microsecond: the counter, the sample, and the detector at the new time (R110). -/
theorem State.captureStep_order (s : State) (lvl : Bool) :
    s.captureStep lvl =
      if s.tickFires then (s.counterUpdate.sampleInput lvl).detectorTick (s.tb.now + 1)
      else s.counterUpdate.sampleInput lvl := by
  unfold State.captureStep
  dsimp only
  rw [State.sampleInput_now]
  rfl

/-- Settles O11: outside reset a microsecond is its capture half and then the engine's step, at the new time. -/
theorem microsecondOrder : Obligations.MicrosecondOrder := by
  intro s lvl rest hin running
  have stepped : step s = .next ((s.setInputs rest).microsecondStep lvl) := by
    rw [step_of_inputs hin, runInput, State.passMicrosecond, if_neg (by simp [running])]
  rw [stepped, State.microsecondStep_eq, State.captureStep_order, State.sampleInput_records]
  simp only [State.counterUpdate, State.tickFires_iff]
  rfl

/-! ### What moves the counter (R211, R261, R277) -/

/-- A microsecond steps the counter unless `rst` is asserted (R111, R261). -/
theorem State.passMicrosecond_now (s : State) (lvl : Bool) :
    (s.passMicrosecond lvl).tb.now = if s.env.rst then s.tb.now else s.tb.now + 1 := by
  rw [State.passMicrosecond_frame]
  split
  · rfl
  · rw [State.txStep_tb, State.captureStep_now]

/-- A level of `rst` sets the counter to 0 where it resets the block (R260, R261). -/
theorem State.driveRst_now (s : State) (level : Bool) :
    (s.driveRst level).tb.now = if level ∨ s.env.rst then 0 else s.tb.now := by
  obtain ⟨rfl, asserted⟩ | ⟨rfl, held, released⟩ | ⟨rfl, running, unchanged⟩ := s.driveRst_cases level
  · rw [asserted, if_pos (.inl rfl)]; rfl
  · rw [released, if_pos (.inr held)]; rfl
  · rw [unchanged, if_neg (by simp [running])]

/-- Settles O12, by the kinds of event a step can take. -/
theorem timeAdvancesByMicroseconds : Obligations.TimeAdvancesByMicroseconds := by
  intro s t hstep
  obtain ⟨hin, rfl⟩ | ⟨lvl, rest, hin, rfl⟩ | ⟨level, rest, hin, rfl⟩ | ⟨a, rest, _, hin, -, -, rfl⟩ |
    ⟨a, rest, _, _, hin, -, -, -, rfl⟩ | ⟨_, rest, _, i, hin, -, -, -, hexec⟩ := step_cases hstep
  all_goals rw [hin]
  · exact State.passMicrosecond_now _ _
  · exact State.passMicrosecond_now _ _
  · exact State.driveRst_now _ _
  · dsimp only
    split <;> rfl
  · dsimp only
    rw [State.refuseAccess_eq]
    rfl
  · obtain ⟨-, sameTime, -⟩ := (effect_of_exec hexec).frame
    exact sameTime

/-! ### Runs of microsecond steps -/

/-- A run of one microsecond more ends with the step of its level. -/
theorem runMicroseconds_concat (levels : List Bool) (lvl : Bool) (s : State) :
    runMicroseconds (levels ++ [lvl]) s = (runMicroseconds levels s).microsecondStep lvl :=
  List.foldl_concat _ _ _ _

/-- The same, for the beginnings of one list of levels. -/
theorem runMicroseconds_take_succ {levels : List Bool} {m : Nat} (hm : m < levels.length) (s : State) :
    runMicroseconds (levels.take (m + 1)) s = (runMicroseconds (levels.take m) s).microsecondStep levels[m] := by
  rw [List.take_succ_eq_append_getElem hm, runMicroseconds_concat]

@[simp] theorem runMicroseconds_cfg (levels : List Bool) (s : State) : (runMicroseconds levels s).cfg = s.cfg := by
  induction levels using List.reverseRecOn with
  | nil => rfl
  | append_singleton levels lvl ih => rw [runMicroseconds_concat, State.microsecondStep_cfg, ih]

/-- A microsecond leaves the time base as the counter update does, with the sampled level (R110). -/
theorem State.microsecondStep_tb (s : State) (lvl : Bool) :
    (s.microsecondStep lvl).tb = { s.counterUpdate.tb with inPrev := lvl } := by
  obtain ⟨_, _, _, frame⟩ := s.captureStep_frame lvl
  rw [State.microsecondStep_eq, State.txStep_tb, frame]

/-- The counter counts the microseconds of a run, modulo 2^32 (R111). -/
theorem runMicroseconds_now (levels : List Bool) (s : State) :
    (runMicroseconds levels s).tb.now = s.tb.now + BitVec.ofNat 32 levels.length := by
  induction levels using List.reverseRecOn with
  | nil => exact (BitVec.add_zero _).symm
  | append_singleton levels lvl ih =>
    calc (runMicroseconds (levels ++ [lvl]) s).tb.now
        = (runMicroseconds levels s).tb.now + 1 := by
          rw [runMicroseconds_concat, State.microsecondStep_tb]; rfl
      _ = s.tb.now + BitVec.ofNat 32 (levels ++ [lvl]).length := by
          rw [ih, List.length_append, List.length_singleton, BitVec.ofNat_add, BitVec.add_assoc]; rfl

/-- The tick divider stands below the period, which fits its 32 bits with room to spare (R5, R22). -/
def State.DividerInPeriod (s : State) : Prop := s.tb.tickDiv.toNat < s.cfg.tickPeriodUs ∧ s.cfg.tickPeriodUs < 2 ^ 31

/-- A divider in its period counts up without wrapping. -/
theorem State.DividerInPeriod.succ {s : State} (h : s.DividerInPeriod) :
    (s.tb.tickDiv + 1).toNat = s.tb.tickDiv.toNat + 1 := by
  obtain ⟨below, fits⟩ := h
  exact BitVec.toNat_add_of_lt (by simp; omega)

/-- The divider counts microseconds modulo the period (R111). -/
theorem State.DividerInPeriod.microsecondStep_tickDiv {s : State} (h : s.DividerInPeriod) (lvl : Bool) :
    (s.microsecondStep lvl).tb.tickDiv.toNat = (s.tb.tickDiv.toNat + 1) % s.cfg.tickPeriodUs := by
  have divider : (s.microsecondStep lvl).tb.tickDiv = if s.tickFires then 0 else s.tb.tickDiv + 1 := by
    rw [State.microsecondStep_tb]; rfl
  have fires := s.tickFires_iff
  rw [h.succ] at fires
  rw [divider]
  split
  · next hf => rw [fires.mp hf, Nat.mod_self]; rfl
  · next hf =>
    obtain ⟨below, -⟩ := id h
    have notPeriod := mt fires.mpr hf
    rw [h.succ, Nat.mod_eq_of_lt (by omega)]

/-- So it does over a run (R111). -/
theorem State.DividerInPeriod.run {s : State} (h : s.DividerInPeriod) (levels : List Bool) :
    (runMicroseconds levels s).DividerInPeriod ∧
      (runMicroseconds levels s).tb.tickDiv.toNat = (s.tb.tickDiv.toNat + levels.length) % s.cfg.tickPeriodUs := by
  obtain ⟨below, fits⟩ := id h
  induction levels using List.reverseRecOn with
  | nil => exact ⟨h, (Nat.mod_eq_of_lt below).symm⟩
  | append_singleton levels lvl ih =>
    obtain ⟨inPeriod, divider⟩ := ih
    have next : (runMicroseconds (levels ++ [lvl]) s).tb.tickDiv.toNat =
        (s.tb.tickDiv.toNat + (levels ++ [lvl]).length) % s.cfg.tickPeriodUs := by
      rw [runMicroseconds_concat, inPeriod.microsecondStep_tickDiv, runMicroseconds_cfg, divider, Nat.mod_add_mod,
        List.length_append, List.length_singleton, Nat.add_assoc]
    refine ⟨⟨?_, ?_⟩, next⟩
    · rw [next, runMicroseconds_cfg]
      exact Nat.mod_lt _ (Nat.zero_lt_of_lt below)
    · rwa [runMicroseconds_cfg]

/-- The microsecond after a run fires a tick where the period divides what the divider has counted (R111). -/
theorem State.DividerInPeriod.tickFires_run_iff {s : State} (h : s.DividerInPeriod) (levels : List Bool) :
    (runMicroseconds levels s).tickFires = true ↔
      s.cfg.tickPeriodUs ∣ s.tb.tickDiv.toNat + levels.length + 1 := by
  obtain ⟨inPeriod, divider⟩ := h.run levels
  obtain ⟨below, -⟩ := id inPeriod
  rw [runMicroseconds_cfg] at below
  rw [State.tickFires_iff, inPeriod.succ, runMicroseconds_cfg, Nat.dvd_iff_mod_eq_zero, ← Nat.mod_add_mod, ← divider]
  constructor
  · intro reached
    rw [reached, Nat.mod_self]
  · intro divides
    by_contra notReached
    rw [Nat.mod_eq_of_lt (by omega)] at divides
    omega

/-- What must be added to `a < p` to reach a multiple of `p` is `p - a`, and any number of periods with it. -/
theorem dvd_add_iff_exists_period {a p n : Nat} (ha : a < p) (hn : 0 < n) : p ∣ a + n ↔ ∃ j, n = p - a + j * p := by
  constructor
  · rintro ⟨c, hc⟩
    obtain _ | j := c
    · omega
    · refine ⟨j, ?_⟩
      rw [Nat.mul_succ, Nat.mul_comm] at hc
      omega
  · rintro ⟨j, hj⟩
    refine ⟨j + 1, ?_⟩
    rw [Nat.mul_succ, Nat.mul_comm]
    omega

/-- Settles O13: from the reset values the counter and the divider count the steps of the run. -/
theorem ticksFallOnThePeriod : Obligations.TicksFallOnThePeriod := by
  intro s levels hlegal atReset
  obtain ⟨-, -, -, -, -, -, -, ⟨-, fits⟩, phase, -⟩ := hlegal
  obtain ⟨htb, -⟩ := atReset
  have now : s.tb.now = 0 := by rw [htb]; rfl
  have divider : s.tb.tickDiv.toNat = s.cfg.tickPhase := by
    rw [htb]
    exact Nat.mod_eq_of_lt (by omega)
  have inPeriod : s.DividerInPeriod := ⟨by rwa [divider], fits⟩
  refine ⟨?_, ?_⟩
  · rw [runMicroseconds_now, now]
    exact BitVec.zero_add _
  · rw [inPeriod.tickFires_run_iff, divider, Nat.add_assoc, dvd_add_iff_exists_period phase (Nat.succ_pos _)]

end Sys2Proof.Machine
end

section
/-! The latency of completion (spec/42_frame_detector.md R150, R152): a session that no edge disturbs stands until the first
tick of a silence above the gap, which ends it. -/

namespace Sys2Proof.Machine
open Sys2Proof.Claims

/-- Time adds up where it does not wrap (R9, R12). -/
theorem elapsed_add_of_lt {t x : Word} {n : Nat} (h : elapsed t x + n < 2 ^ 32) :
    elapsed (t + BitVec.ofNat 32 n) x = elapsed t x + n := by
  unfold elapsed at *
  have moved : t + BitVec.ofNat 32 n - x = (t - x) + BitVec.ofNat 32 n := by bv_omega
  rw [moved, BitVec.toNat_add, BitVec.toNat_ofNat, Nat.add_mod_mod, Nat.mod_eq_of_lt h]

/-- Whether a tick ends the session depends on the parameters and the session only (R150). -/
theorem State.silenceEnds_congr {s u : State} (hcfg : u.cfg = s.cfg) (hcap : u.cap = s.cap) (t : Word) :
    u.SilenceEnds t ↔ s.SilenceEnds t := by
  simp only [State.SilenceEnds, hcfg, hcap]

/-- The session after a microsecond of a run that samples no accepted edge, where the run has left it as it was (R150,
R151). -/
theorem runMicroseconds_take_succ_cap {s : State} {levels : List Bool} (noEdge : noEdgeAccepted s levels) {m : Nat}
    (hm : m < levels.length) (same : (runMicroseconds (levels.take m) s).cap = s.cap) :
    (runMicroseconds (levels.take (m + 1)) s).cap =
      if (runMicroseconds (levels.take m) s).tickFires = true ∧ s.SilenceEnds (s.tb.now + BitVec.ofNat 32 (m + 1))
      then (s.finalize (s.tb.now + BitVec.ofNat 32 (m + 1))).cap else s.cap := by
  have now : (runMicroseconds (levels.take m) s).tb.now + 1 = s.tb.now + BitVec.ofNat 32 (m + 1) := by
    rw [runMicroseconds_now, List.length_take_of_le hm.le, BitVec.ofNat_add, BitVec.add_assoc]; rfl
  rw [runMicroseconds_take_succ hm, State.microsecondStep_cap, State.captureStep_cap_of_not_accepted (noEdge m hm), now]
  simp only [State.silenceEnds_congr (runMicroseconds_cfg _ s) same, State.finalize, State.setCap_cap, same]

/-- A run that samples no accepted edge leaves the session as it was until a tick ends it (R151). -/
theorem runMicroseconds_take_cap {s : State} {levels : List Bool} (noEdge : noEdgeAccepted s levels) {m : Nat}
    (hm : m ≤ levels.length)
    (noEnd : ∀ j < m, (runMicroseconds (levels.take j) s).tickFires = true →
      ¬ s.SilenceEnds (s.tb.now + BitVec.ofNat 32 (j + 1))) :
    (runMicroseconds (levels.take m) s).cap = s.cap := by
  induction m with
  | zero => rfl
  | succ m ih =>
    have same := ih (Nat.le_of_succ_le hm) fun j hj => noEnd j (Nat.lt_succ_of_lt hj)
    rw [runMicroseconds_take_succ_cap noEdge hm same, if_neg fun ⟨fires, ends⟩ => noEnd m (Nat.lt_succ_self m) fires ends]

/-- Among any `p` numbers from `k` on there is a first tick of a divider that stood at `a`. -/
theorem exists_first_tick (a k : Nat) {p : Nat} (hp : 0 < p) :
    ∃ m, k ≤ m ∧ m < k + p ∧ p ∣ a + m + 1 ∧ ∀ m' < m, p ∣ a + m' + 1 → m' < k := by
  have tick : p ∣ a + (k + (p - 1 - (a + k) % p)) + 1 := by
    have below := Nat.mod_lt (a + k) hp
    have split := Nat.div_add_mod (a + k) p
    refine ⟨(a + k) / p + 1, ?_⟩
    rw [Nat.mul_succ]
    omega
  have exists_tick : ∃ m, k ≤ m ∧ p ∣ a + m + 1 := ⟨_, Nat.le_add_right _ _, tick⟩
  have first := Nat.find_min' exists_tick ⟨Nat.le_add_right _ _, tick⟩
  obtain ⟨fromK, isTick⟩ := Nat.find_spec exists_tick
  refine ⟨Nat.find exists_tick, fromK, by omega, isTick, fun m' earlier divides => ?_⟩
  exact Nat.not_le.mp fun late => Nat.find_min exists_tick earlier ⟨late, divides⟩

/-- Settles O30: before the first tick of a silence above the gap no microsecond changes the session, and that tick
finalises it. -/
theorem completionLatency : Obligations.CompletionLatency := by
  intro s levels hlegal hdivider hcapturing hlong hsilence hlength noEdge silence run
  obtain ⟨-, -, -, -, -, -, gapFits, ⟨period, fits⟩, -⟩ := hlegal
  obtain ⟨isCapturing, -⟩ := id hcapturing
  have inPeriod : s.DividerInPeriod := ⟨hdivider, fits⟩
  obtain ⟨m, afterGap, within, isTick, first⟩ :=
    exists_first_tick s.tb.tickDiv.toNat (s.cfg.silenceGapUs - silence 0) period
  simp only [silence, Nat.add_zero] at afterGap within first
  have inRun : m < levels.length := by omega
  have fires_iff : ∀ j ≤ m, (run j).tickFires = true ↔ s.cfg.tickPeriodUs ∣ s.tb.tickDiv.toNat + j + 1 := by
    intro j hj
    rw [inPeriod.tickFires_run_iff, List.length_take_of_le (by omega)]
  have ends_iff : ∀ j ≤ m, s.SilenceEnds (s.tb.now + BitVec.ofNat 32 (j + 1)) ↔
      s.cfg.silenceGapUs < silence (j + 1) := by
    intro j hj
    have time : elapsed (s.tb.now + BitVec.ofNat 32 (j + 1)) s.cap.lastEdge = silence (j + 1) :=
      elapsed_add_of_lt (by unfold elapsed; omega)
    simp only [State.SilenceEnds, time, isCapturing, hlong, true_and, and_true]
  have early : ∀ j < m, (run j).tickFires = true → silence (j + 1) ≤ s.cfg.silenceGapUs := by
    intro j hj fires
    have beforeGap := first j hj ((fires_iff j hj.le).mp fires)
    simp only [silence]
    omega
  have same : ∀ j ≤ m, (run j).cap = s.cap := fun j hj =>
    runMicroseconds_take_cap noEdge (by omega) fun i hi fires ends =>
      Nat.not_lt.mpr (early i (by omega) fires) ((ends_iff i (by omega)).mp ends)
  have late : s.cfg.silenceGapUs < silence (m + 1) := by simp only [silence]; omega
  have fires := (fires_iff m le_rfl).mpr isTick
  have finalised := runMicroseconds_take_succ_cap noEdge inRun (same m le_rfl)
  rw [if_pos ⟨fires, (ends_iff m le_rfl).mpr late⟩] at finalised
  refine ⟨m, inRun, fires, late, early, by simp only [silence]; omega, fun j hj => ?_, ?_⟩
  · simpa only [capturing, same j hj] using hcapturing
  · exact ⟨(congrArg Session.capturing finalised :), (congrArg Session.ready finalised :)⟩

end Sys2Proof.Machine
end

section
/-! The edge event, the detector tick and the capture-control commands (spec/41_edge_capturer.md R120 to R125, R130 to R133,
spec/42_frame_detector.md R150): R120's acceptance in the statements' words, then the whole state after an accepted edge, by
whether a session is capturing. -/

namespace Sys2Proof.Machine
open Sys2Proof.Claims

/-- The edge event is the accepted edge where R120 accepts it. -/
theorem State.edgeEvent_of_accepted {s : State} {t : Word} (h : accepted s t) (lvl : Bool) :
    s.edgeEvent t lvl = s.acceptedEdge t lvl :=
  s.edgeEvent_accepted t lvl ((s.acceptsEdge_iff t).mpr h)

/-- The edge event has no effect where R120 does not accept it. -/
theorem State.edgeEvent_of_not_accepted {s : State} {t : Word} (h : ¬ accepted s t) (lvl : Bool) :
    s.edgeEvent t lvl = s :=
  s.edgeEvent_rejected t lvl (Bool.eq_false_iff.mpr fun accepts => h ((s.acceptsEdge_iff t).mp accepts))

/-- Classifying a duration leaves the debounce stamp where it was (R123). -/
theorem State.inCapture_lastDb (s : State) (t : Word) : (s.inCapture t).cap.lastDb = s.cap.lastDb := by
  obtain ⟨-, -, -, append⟩ | ⟨-, -, -, finalise⟩ | ⟨-, -, long⟩ | ⟨-, -, short⟩ := s.inCapture_cases t
  · rw [append, State.appendDuration_cap]
  · rw [finalise, State.finalize_cap]
  · rw [long, State.setHost_cap]
  · rw [short]

/-- An accepted edge while capturing: the debounce stamp, the class of its duration, and the two stamps of R125 (R123). -/
theorem State.acceptedEdge_capturing {s : State} (t : Word) (lvl : Bool) (h : s.cap.capturing = true) :
    s.acceptedEdge t lvl =
      let u := (s.setCap { s.cap with lastDb := t }).inCapture t
      u.setCap { u.cap with lastEdge := t, lastLevel := lvl } := by
  simp [State.acceptedEdge, h]

/-- An accepted edge restarts the debounce, whatever it does to the session (R125). -/
theorem State.acceptedEdge_lastDb (s : State) (t : Word) (lvl : Bool) : (s.acceptedEdge t lvl).cap.lastDb = t := by
  cases h : s.cap.capturing with
  | true =>
    rw [State.acceptedEdge_capturing t lvl h]
    exact State.inCapture_lastDb _ t
  | false =>
    cases lvl with
    | true => rw [State.acceptedEdge_rising t h]; rfl
    | false => rw [State.acceptedEdge_falling t h]

/-- Settles O24, by whether R120 accepts the edge. -/
theorem edgesAreGatedAndDebounced : Obligations.EdgesAreGatedAndDebounced := by
  refine fun s t lvl => ⟨fun h => State.edgeEvent_of_not_accepted h lvl, fun h => ?_⟩
  rw [State.edgeEvent_of_accepted h]
  exact ⟨s.acceptedEdge_lastDb t lvl, s.acceptedEdge_lastEdge t lvl, rfl⟩

/-- What CapBuf reads after one entry is written (R61). -/
theorem State.capEntry_of_write {s t : State} {k : Nat} {v : Entry} (hbuf : t.cap.buf = s.cap.buf.write k v)
    (hepoch : t.env.epoch = s.env.epoch) (i : Nat) : t.capEntry i = if i = k then v else s.capEntry i := by
  simp only [State.capEntry, hbuf, hepoch, Memory.lookup_write]
  split <;> rfl

/-- Settles O27, by the classes of a duration and, for one in range, by whether the buffer is full. -/
theorem durationsAreClassified : Obligations.DurationsAreClassified := by
  intro s t lvl isAccepted isCapturing dur u stamped
  have edge : u = _ :=
    (State.edgeEvent_of_accepted isAccepted lvl).trans (State.acceptedEdge_capturing t lvl isCapturing)
  obtain ⟨lo, hi, room, append⟩ | ⟨lo, hi, full, finalise⟩ | ⟨out, above, long⟩ | ⟨out, notAbove, short⟩ :=
    State.inCapture_cases (s.setCap { s.cap with lastDb := t }) t
  · rw [append] at edge
    have entry := State.capEntry_of_write (s := s) (t := u) (k := s.cap.count.toNat) (v := durationEntry dur)
      (by rw [edge]; rfl) (by rw [edge]; rfl)
    rw [if_pos (by exact ⟨lo, hi⟩), if_pos (by exact room)]
    refine ⟨by rw [edge]; rfl, ?_, fun i other => ?_⟩
    · rw [entry, if_pos rfl]; rfl
    · rw [entry, if_neg other]
  · rw [finalise] at edge
    rw [if_pos (by exact ⟨lo, hi⟩), if_neg (by exact Nat.not_lt.mpr full)]
    exact edge
  · rw [long] at edge
    rw [if_neg (by exact out), if_pos (by exact above)]
    exact edge
  · rw [short] at edge
    rw [if_neg (by exact out), if_neg (by exact notAbove)]
    exact edge

/-- Settles O25: outside a capture an accepted rising edge only stamps. -/
theorem risingEdgeOutsideCaptureIsIgnored : Obligations.RisingEdgeOutsideCaptureIsIgnored :=
  fun _ t isAccepted notCapturing => (State.edgeEvent_of_accepted isAccepted true).trans (State.acceptedEdge_rising t notCapturing)

/-- Settles O26: the accepted falling edge outside a capture is start-of-signal. -/
theorem fallingEdgeStartsASession : Obligations.FallingEdgeStartsASession :=
  fun _ t isAccepted notCapturing => (State.edgeEvent_of_accepted isAccepted false).trans (State.acceptedEdge_falling t notCapturing)

/-- Settles O28, by whether silence ends a capture long enough. -/
theorem detectorFinalisesAfterSilence : Obligations.DetectorFinalisesAfterSilence := by
  intro s t
  by_cases ends : s.SilenceEnds t
  · exact (State.detectorTick_of_silence ends).trans (if_pos ends).symm
  · exact (State.detectorTick_of_no_silence ends).trans (if_neg ends).symm

/-- No edge is accepted while capture is disabled (R120, R132). -/
theorem not_accepted_of_disabled {s : State} (h : s.cap.capEn = false) (t : Word) : ¬ accepted s t :=
  fun ⟨enabled, _⟩ => Bool.false_ne_true (h.symm.trans enabled)

/-- The detector does not look at the enable: STOP and a tick commute (R132, R150). -/
theorem cmdStop_detectorTick (s : State) (t : Word) : (cmdStop s).detectorTick t = cmdStop (s.detectorTick t) := by
  by_cases ends : s.SilenceEnds t
  · rw [State.detectorTick_of_silence ends]
    exact State.detectorTick_of_silence (s := cmdStop s) ends
  · rw [State.detectorTick_of_no_silence ends]
    exact State.detectorTick_of_no_silence (s := cmdStop s) ends

/-- Settles O32: the words are the encodings of their commands; after a STOP no edge is accepted, and the detector does not
look at the enable. -/
theorem captureControlCommands : Obligations.CaptureControlCommands :=
  ⟨decodeItem_encode .start, decodeItem_encode .stop, decodeItem_encode .reset, fun s =>
    ⟨fun t lvl => State.edgeEvent_of_not_accepted (s := cmdStop s) (not_accepted_of_disabled rfl t) lvl,
      cmdStop_detectorTick s, rfl, rfl, rfl⟩⟩

end Sys2Proof.Machine
end

section
/-! The short session (spec/42_frame_detector.md R151): the detector ends only a session longer than MIN_VALID_COUNT, so a
session no longer than that waits for an edge, whatever the silence. -/

namespace Sys2Proof.Machine
open Sys2Proof.Claims

/-- No silence ends a session of at most MIN_VALID_COUNT entries (R151). -/
theorem State.not_silenceEnds_of_short {s : State} (h : s.cap.count.toNat ≤ s.cfg.minValidCount) (t : Word) :
    ¬ s.SilenceEnds t :=
  fun ⟨_, _, long⟩ => Nat.not_lt.mpr h long

/-- Settles O29: without an accepted edge only the detector could change the session, and it never ends a short one. -/
theorem shortSessionHangs : Obligations.ShortSessionHangs := by
  intro s levels _ short noEdge
  have same := runMicroseconds_take_cap noEdge le_rfl fun _ _ _ => State.not_silenceEnds_of_short short _
  rwa [List.take_length] at same

end Sys2Proof.Machine
end

section
/-! COLLECT (spec/43_signal_bank.md R161, R162): what the slot that COLLECT fills reads afterwards, and the four results. -/

namespace Sys2Proof.Machine
open Sys2Proof.Claims

/-- A slot filled by COLLECT reads the captured entries below the count, and above it what it read before (R162). -/
theorem State.bankEntry_of_collectedSlot {s t : State} {k : Nat} (hslot : t.slotAt k = s.collectedSlot k)
    (hepoch : t.env.epoch = s.env.epoch) (i : Nat) :
    t.bankEntry k i = if i < s.cap.count.toNat then s.capEntry i else s.bankEntry k i := by
  simp only [State.bankEntry, hslot, hepoch, State.collectedSlot, copyEntries_lookup]
  split <;> rfl

/-- Settles O34, by the four cases of COLLECT: each result's conditions pick the branch of the statement. -/
theorem collectResults : Obligations.CollectResults := by
  refine ⟨decodeItem_encode .collect, fun s => ⟨cmdCollect s, rfl, ?_⟩⟩
  obtain ⟨idle, none⟩ | ⟨isReady, short, discarded⟩ | ⟨isReady, long, isFull, full⟩ | ⟨isReady, long, notFull, stored⟩ :=
    cmdCollect_cases s
  · rw [if_pos idle]
    exact none
  · rw [if_neg (by simp [isReady]), if_pos short]
    exact discarded
  · rw [if_neg (by simp [isReady]), if_neg (Nat.not_le.mpr long), if_pos isFull]
    exact full
  · rw [if_neg (by simp [isReady]), if_neg (Nat.not_le.mpr long), if_neg notFull]
    have epoch : (cmdCollect s).env.epoch = s.env.epoch := by rw [stored]
    have slot := State.slotAt_of_write (s := s) (t := cmdCollect s) (by rw [stored]) epoch
    have filled : (cmdCollect s).slotAt s.bank.size.toNat = s.collectedSlot s.bank.size.toNat := by
      rw [slot, if_pos rfl]
    have entry := State.bankEntry_of_collectedSlot filled epoch
    refine ⟨by rw [stored]; rfl, by rw [filled]; rfl, by rw [filled]; rfl, by rw [filled]; rfl,
      fun i below => ?_, fun i above => ?_, fun k other => ?_⟩
    · rw [entry, if_pos below]
    · rw [entry, if_neg (Nat.not_lt.mpr above)]
    · rw [slot, if_neg other]

end Sys2Proof.Machine
end

section
/-! Capture and transmission share no state (spec/44_transmitter.md R189): the session after an edge is a function of the
parameters and the session, and the engine after its step a function of the engine, the bank and the environment. -/

namespace Sys2Proof.Machine
open Sys2Proof.Claims

/-- The session after an edge that is classified: append, finalise, or leave (R123). -/
theorem State.inCapture_cap (s : State) (t : Word) :
    (s.inCapture t).cap =
      if s.PulseInRange t then
        if s.cap.count.toNat < s.cfg.capacity then (s.appendDuration (elapsed t s.cap.lastEdge)).cap
        else (s.finalize t).cap
      else s.cap := by
  obtain ⟨lo, hi, room, append⟩ | ⟨lo, hi, full, finalise⟩ | ⟨out, -, long⟩ | ⟨out, -, short⟩ := s.inCapture_cases t
  · rw [append, if_pos ⟨lo, hi⟩, if_pos room]
  · rw [finalise, if_pos ⟨lo, hi⟩, if_neg (Nat.not_lt.mpr full)]
  · rw [long, if_neg out]; rfl
  · rw [short, if_neg out]

/-- So it is a function of the parameters and the session before it. -/
theorem State.inCapture_cap_congr {s s' : State} (cfg : s.cfg = s'.cfg) (cap : s.cap = s'.cap) (t : Word) :
    (s.inCapture t).cap = (s'.inCapture t).cap := by
  rw [State.inCapture_cap, State.inCapture_cap, State.appendDuration_cap, State.finalize_cap]
  unfold State.PulseInRange
  rw [cfg, cap]
  rfl

/-- The session after an accepted edge, by the parameters and the session before it (R121 to R125). -/
theorem State.acceptedEdge_cap_congr {s s' : State} (cfg : s.cfg = s'.cfg) (cap : s.cap = s'.cap) (t : Word) (lvl : Bool) :
    (s.acceptedEdge t lvl).cap = (s'.acceptedEdge t lvl).cap := by
  cases hc : s.cap.capturing with
  | false =>
    have hc' : s'.cap.capturing = false := cap ▸ hc
    cases lvl with
    | false => rw [State.acceptedEdge_falling t hc, State.acceptedEdge_falling t hc', cap]
    | true => rw [State.acceptedEdge_rising t hc, State.acceptedEdge_rising t hc', State.setCap_cap, State.setCap_cap, cap]
  | true =>
    have hc' : s'.cap.capturing = true := cap ▸ hc
    rw [State.acceptedEdge_capturing t lvl hc, State.acceptedEdge_capturing t lvl hc']
    have classified := State.inCapture_cap_congr (s := s.setCap { s.cap with lastDb := t })
      (s' := s'.setCap { s'.cap with lastDb := t }) cfg (by rw [State.setCap_cap, State.setCap_cap, cap]) t
    dsimp only [State.setCap_cap] at classified ⊢
    rw [classified]

/-- The counter update, by the parameters and the time base (R111). -/
theorem State.counterUpdate_tb_congr {s s' : State} (cfg : s.cfg = s'.cfg) (tb : s.tb = s'.tb) :
    s.counterUpdate.tb = s'.counterUpdate.tb := by
  unfold State.counterUpdate State.tickFires
  rw [State.setTb_tb, State.setTb_tb, cfg, tb]

/-- The session after the capture half of a microsecond, by the parameters, the time base and the session (R110). -/
theorem State.captureStep_cap_congr {s s' : State} (cfg : s.cfg = s'.cfg) (tb : s.tb = s'.tb) (cap : s.cap = s'.cap)
    (lvl : Bool) : (s.captureStep lvl).cap = (s'.captureStep lvl).cap := by
  have edge : acceptedSample s lvl ↔ acceptedSample s' lvl := by simp only [acceptedSample, accepted, cfg, tb, cap]
  by_cases h : acceptedSample s lvl
  · rw [State.captureStep_cap_of_accepted h, State.captureStep_cap_of_accepted (edge.mp h), tb]
    exact State.acceptedEdge_cap_congr cfg cap _ lvl
  · rw [State.captureStep_cap_of_not_accepted h, State.captureStep_cap_of_not_accepted (mt edge.mpr h)]
    rw [State.finalize_cap, State.finalize_cap]
    unfold State.tickFires State.SilenceEnds
    rw [cfg, tb, cap]

/-- The engine after EnterSegment, by the engine, the bank and the environment (R183). -/
theorem State.enterSegmentLoop_tx_congr (t : Word) (left : Nat) {s s' : State} (tx : s.tx = s'.tx) (bank : s.bank = s'.bank)
    (env : s.env = s'.env) : (State.enterSegmentLoop t left s).tx = (State.enterSegmentLoop t left s').tx := by
  induction left generalizing s s' with
  | zero => simp [State.enterSegmentLoop, tx]
  | succ left ih =>
    have seq := State.seq_congr (s := s') (t := s) (by rw [tx]) (by rw [tx]) (by rw [tx]) (by rw [bank]) (by rw [env])
    simp only [State.enterSegmentLoop, seq, tx, State.setTx_tx, State.setTx_setTx]
    split
    · simp [tx]
    · split
      · split
        · exact ih rfl bank env
        · rfl
      · split
        · exact ih rfl bank env
        · rfl

/-- The engine after its step, by the engine, the bank and the environment (R185). -/
theorem State.txStep_tx_congr {s s' : State} (t : Word) (tx : s.tx = s'.tx) (bank : s.bank = s'.bank)
    (env : s.env = s'.env) : (s.txStep t).tx = (s'.txStep t).tx := by
  have seq := State.seq_congr (s := s') (t := s) (by rw [tx]) (by rw [tx]) (by rw [tx]) (by rw [bank]) (by rw [env])
  simp only [State.txStep, seq, tx]
  split
  · exact tx
  · split
    · rfl
    · exact State.enterSegmentLoop_tx_congr t _ rfl bank env

/-- Settles O22: the capture half of a microsecond reads no transmitter, and the engine's step reads no session. -/
theorem captureAndTransmissionShareNoState : Obligations.CaptureAndTransmissionShareNoState := by
  refine fun s s' lvl => ⟨fun cfg tb cap => ⟨?_, ?_⟩, fun now tx bank env => ?_⟩
  · rw [State.microsecondStep_tb, State.microsecondStep_tb, State.counterUpdate_tb_congr cfg tb]
  · rw [State.microsecondStep_cap, State.microsecondStep_cap, State.captureStep_cap_congr cfg tb cap]
  · rw [State.microsecondStep_eq, State.microsecondStep_eq, now]
    exact State.txStep_tx_congr _ (by simpa using tx) (by simpa using bank) (by simpa using env)

end Sys2Proof.Machine
end

section
/-! The transmit commands (spec/44_transmitter.md R180 to R184): when they are refused, what an accepted one latches, and where
it comes to rest. -/

namespace Sys2Proof.Machine
open Sys2Proof.Claims

/-- A transmit command is the start of its source; TX_BUF names no slot (R181, R182). -/
theorem exec_transmit {useBuf : Bool} {slot : SlotNo} (noSlot : useBuf = true → slot = 0) (s : State) :
    exec (if useBuf then .txBuf else .txBank slot) s = .next (txStart useBuf slot s) := by
  cases useBuf with
  | false => rfl
  | true => rw [noSlot rfl]; rfl

/-- Settles O47: a refused start raises CmdError, and nothing else. -/
theorem transmitRefusals : Obligations.TransmitRefusals := fun s k =>
  ⟨fun refused => congrArg _ (txStart_refused false k s ((s.txStartRefused_iff false k).mpr refused)),
    fun refused => congrArg _ (txStart_refused true 0 s ((s.txStartRefused_iff true 0).mpr refused))⟩

/-- What an accepted start latches before it enters the first segment (R180). -/
def State.latch (s : State) (useBuf : Bool) (slot : SlotNo) : State :=
  s.setTx { s.tx with
    half := halfPeriod s.tx.carrier
    useBuf := useBuf
    slot := slot
    n := if useBuf then s.tx.count else (s.slotAt slot.toNat).count
    idx := 0
    busy := true }

/-- A start that R180 does not refuse, by its number. -/
theorem State.txStartRefused_of_accepted {s : State} {useBuf : Bool} {slot : SlotNo}
    (accepted : ¬ transmitRefused s useBuf slot.toNat) : s.txStartRefused useBuf slot = false :=
  Bool.eq_false_iff.mpr fun refused => accepted ((s.txStartRefused_iff useBuf slot).mp refused)

/-- An accepted start latches its source and enters the first segment (R180). -/
theorem txStart_eq_enterSegment {s : State} {useBuf : Bool} {slot : SlotNo}
    (accepted : ¬ transmitRefused s useBuf slot.toNat) :
    txStart useBuf slot s = (s.latch useBuf slot).enterSegment s.tb.now :=
  txStart_accepted useBuf slot s (State.txStartRefused_of_accepted accepted)

/-- The sequence a start would play is the one it latches (R180, R183). -/
theorem sequenceOf_eq_latch (s : State) (useBuf : Bool) (slot : SlotNo) :
    sequenceOf s useBuf slot =
      (List.range (s.latch useBuf slot).tx.n.toNat).map fun i => ((s.latch useBuf slot).seq i).toNat := by
  cases useBuf <;> rfl

/-- The number of segments latched is the length of the sequence. -/
theorem sequenceOf_length (s : State) (useBuf : Bool) (slot : SlotNo) :
    (sequenceOf s useBuf slot).length = (s.latch useBuf slot).tx.n.toNat := by
  rw [sequenceOf_eq_latch, List.length_map, List.length_range]

/-- An entry of the sequence is the segment's duration. -/
theorem sequenceOf_getElem (s : State) (useBuf : Bool) (slot : SlotNo) {i : Nat}
    (hi : i < (sequenceOf s useBuf slot).length) :
    (sequenceOf s useBuf slot)[i] = ((s.latch useBuf slot).seq i).toNat := by
  simp only [sequenceOf_eq_latch, List.getElem_map, List.getElem_range]

/-- An accepted start changes the engine and TX_DONE, nothing else (R180). -/
theorem txStart_latch_frame {s : State} {useBuf : Bool} {slot : SlotNo}
    (accepted : ¬ transmitRefused s useBuf slot.toNat) :
    let t := txStart useBuf slot s
    t = { s with
      tx := { s.tx with
        busy := t.tx.busy, useBuf := useBuf, slot := slot, n := (s.latch useBuf slot).tx.n, idx := t.tx.idx,
        half := BitVec.ofNat 32 (1000000 / (2 * s.tx.carrier.toNat)), segStart := t.tx.segStart,
        next := t.tx.next, k := t.tx.k, irOut := t.tx.irOut }
      host := { s.host with txDone := t.host.txDone } } := by
  obtain ⟨_, _, _, _, _, _, _, frame⟩ := txStart_frame useBuf slot s (State.txStartRefused_of_accepted accepted)
  rw [frame]
  rfl

/-- Settles O48: the start enters the first segment that is not empty, or ends where there is none. -/
theorem transmitStarts : Obligations.TransmitStarts := by
  intro s useBuf slot accepted noSlot d
  have length : d.length = (s.latch useBuf slot).tx.n.toNat := sequenceOf_length s useBuf slot
  have n : BitVec.ofNat 16 d.length = (s.latch useBuf slot).tx.n := by rw [length, BitVec.ofNat_toNat, BitVec.setWidth_eq]
  have empty : ∀ i (hi : i < d.length), d[i] = 0 → (s.latch useBuf slot).seq i = 0 := fun i hi zero =>
    BitVec.eq_of_toNat_eq ((sequenceOf_getElem s useBuf slot hi).symm.trans zero)
  refine ⟨txStart useBuf slot s, exec_transmit noSlot s, ?_, ?_, ?_⟩
  · rw [n]
    exact txStart_latch_frame accepted
  · intro j hj notEmpty before
    rw [sequenceOf_getElem s useBuf slot hj] at notEmpty
    rw [txStart_eq_enterSegment accepted, (s.latch useBuf slot).enterSegment_stops _ j (Nat.zero_le j) (length ▸ hj)
      (fun zero => notEmpty (congrArg BitVec.toNat zero)) fun i _ hi => empty i (by omega) (before i hi)]
    refine ⟨rfl, index_toNat (length ▸ hj), rfl, rfl, ?_⟩
    rw [sequenceOf_getElem s useBuf slot hj, BitVec.ofNat_toNat]
    split
    · next mark => exact ⟨decide_eq_true mark, rfl, rfl⟩
    · next space => exact ⟨decide_eq_false space, rfl, rfl⟩
  · intro allEmpty
    rw [txStart_eq_enterSegment accepted, (s.latch useBuf slot).enterSegment_ends _ (Nat.zero_le _)
      fun i _ hi => empty i (length ▸ hi) (allEmpty _ (List.getElem_mem _))]
    refine ⟨rfl, length.symm, rfl, rfl, rfl, rfl, ?_⟩
    have none : d = [] ↔ (s.latch useBuf slot).tx.idx = (s.latch useBuf slot).tx.n := by
      rw [← List.length_eq_zero_iff, length, ← BitVec.toNat_inj]
      exact eq_comm
    simp only [none]
    rfl

end Sys2Proof.Machine
end

section
/-! The engine's step (spec/44_transmitter.md R185) and the segment it plays (R186 to R188): what the engine holds at each
microsecond inside a segment, and that it leaves the segment at the microsecond of its length. -/

namespace Sys2Proof.Machine
open Sys2Proof.Claims

/-! ### The step's three cases -/

/-- Idle, or at another time than that of its next event, the engine does nothing (R185). -/
theorem State.txStep_of_not_due {s : State} {t : Word} (h : s.tx.busy = false ∨ t ≠ s.tx.next) : s.txStep t = s :=
  if_pos h

/-- A segment goes on past its event at `t`: it is a mark that has not lasted its duration (R185). -/
abbrev State.MarkGoesOn (s : State) (t : Word) : Prop :=
  s.tx.idx.toNat % 2 = 0 ∧ elapsed t s.tx.segStart < (s.seq s.tx.idx.toNat).toNat

/-- A segment of even index is a mark. -/
theorem isMark_iff (i : Entry) : isMark i = true ↔ i.toNat % 2 = 0 := beq_iff_eq

/-- At a half-period boundary inside a mark the engine toggles (R185). -/
theorem State.txStep_toggles {s : State} {t : Word} (busy : s.tx.busy = true) (due : t = s.tx.next)
    (goesOn : s.MarkGoesOn t) :
    s.txStep t = s.setTx { s.tx with k := !s.tx.k, irOut := s.tx.k, next := t + s.tx.half } := by
  unfold State.txStep
  rw [if_neg (by simp [busy, due]), if_pos ((and_congr_left' (isMark_iff _)).mpr goesOn)]

/-- Where the segment ends the engine enters the next (R185). -/
theorem State.txStep_leaves {s : State} {t : Word} (busy : s.tx.busy = true) (due : t = s.tx.next)
    (ends : ¬ s.MarkGoesOn t) : s.txStep t = (s.setTx { s.tx with idx := s.tx.idx + 1 }).enterSegment t := by
  unfold State.txStep
  rw [if_neg (by simp [busy, due]), if_neg fun goesOn => ends ((and_congr_left' (isMark_iff _)).mp goesOn)]

/-- Settles O49: the first two cases of the step. -/
theorem engineTogglesInsideAMark : Obligations.EngineTogglesInsideAMark := fun _ _ =>
  ⟨State.txStep_of_not_due, fun busy due mark inside => State.txStep_toggles busy due ⟨mark, inside⟩⟩

/-- Settles O50: the third case of the step, with no segment left to enter. -/
theorem transmissionEndsLow : Obligations.TransmissionEndsLow := by
  intro s t busy due last ends
  rw [State.txStep_leaves busy due ends, last,
    State.enterSegment_ends _ _ le_rfl fun i reached below => absurd below (Nat.not_lt.mpr reached)]
  simp [State.setTx]

/-! ### Times within a segment -/

/-- Two times counted from one start are the same where the counts are. -/
theorem time_inj {t : Word} {m n : Nat} (hm : m < 2 ^ 32) (hn : n < 2 ^ 32) :
    t + BitVec.ofNat 32 m = t + BitVec.ofNat 32 n ↔ m = n := by
  rw [BitVec.add_right_inj, ← BitVec.toNat_inj, BitVec.toNat_ofNat, BitVec.toNat_ofNat, Nat.mod_eq_of_lt hm,
    Nat.mod_eq_of_lt hn]

/-- The time passed since a start. -/
theorem elapsed_add_ofNat (t : Word) {n : Nat} (hn : n < 2 ^ 32) : elapsed (t + BitVec.ofNat 32 n) t = n := by
  rw [elapsed_add_left, BitVec.toNat_ofNat, Nat.mod_eq_of_lt hn]

/-- The half-period boundary after microsecond `j` is the next microsecond exactly where that is a multiple. -/
theorem boundary_next_iff {h : Nat} (j : Nat) : j + 1 = h * (j / h + 1) ↔ h ∣ j + 1 := by
  refine ⟨fun eq => ⟨_, eq⟩, fun divides => ?_⟩
  rw [← Nat.succ_div_of_dvd divides, Nat.mul_div_cancel' divides]

/-- A mark lasts the least multiple of the half-period that is not below its duration (R186). -/
theorem markLength_bounds {h : Nat} (d : Nat) (hh : 1 ≤ h) :
    d ≤ h * ((d + h - 1) / h) ∧ h * ((d + h - 1) / h) < d + h := by
  have division := Nat.div_add_mod (d + h - 1) h
  have remainder := Nat.mod_lt (d + h - 1) hh
  omega

/-- At a half-period boundary not past the end of a mark, the mark goes on exactly where its duration has not passed. -/
theorem lt_markLength_iff {h : Nat} {d m : Nat} (hh : 1 ≤ h) (boundary : h ∣ m) :
    m < h * ((d + h - 1) / h) ↔ m < d := by
  obtain ⟨q, rfl⟩ := boundary
  rw [Nat.mul_lt_mul_left hh, ← Nat.add_one_le_iff, Nat.le_div_iff_mul_le hh, Nat.add_mul, Nat.mul_comm q h]
  omega

/-! ### Inside a segment -/

/-- The length of the segment that the engine stands in (R186). -/
def State.playTime (s : State) : Nat := segmentLength s.tx.half.toNat s.tx.idx.toNat (s.seq s.tx.idx.toNat).toNat

/-- A mark plays its duration rounded up to whole half-periods (R186). -/
theorem State.playTime_of_mark {s : State} (mark : s.tx.idx.toNat % 2 = 0) :
    s.playTime = s.tx.half.toNat * (((s.seq s.tx.idx.toNat).toNat + s.tx.half.toNat - 1) / s.tx.half.toNat) := if_pos mark

/-- A space plays its duration (R186). -/
theorem State.playTime_of_space {s : State} (space : ¬ s.tx.idx.toNat % 2 = 0) :
    s.playTime = (s.seq s.tx.idx.toNat).toNat := if_neg space

/-- The engine's fields `j` microseconds after it entered the segment it stands in, before the segment's end: in a mark the
parity, the output and the boundary of the half-period that `j` lies in (R185); in a space as it was entered. -/
def Transmitter.inside (x : Transmitter) (j : Nat) : Transmitter :=
  if x.idx.toNat % 2 = 0 then
    { x with
      k := decide (j / x.half.toNat % 2 = 1)
      irOut := decide (j / x.half.toNat % 2 = 0)
      next := x.segStart + BitVec.ofNat 32 (x.half.toNat * (j / x.half.toNat + 1)) }
  else x

theorem Transmitter.inside_of_mark {x : Transmitter} (mark : x.idx.toNat % 2 = 0) (j : Nat) :
    x.inside j = { x with
      k := decide (j / x.half.toNat % 2 = 1)
      irOut := decide (j / x.half.toNat % 2 = 0)
      next := x.segStart + BitVec.ofNat 32 (x.half.toNat * (j / x.half.toNat + 1)) } := if_pos mark

theorem Transmitter.inside_of_space {x : Transmitter} (space : ¬ x.idx.toNat % 2 = 0) (j : Nat) : x.inside j = x :=
  if_neg space

/-- Inside a segment only the parity, the output and the next event move (R185). -/
theorem Transmitter.inside_frame (x : Transmitter) (j : Nat) :
    x.inside j = { x with k := (x.inside j).k, irOut := (x.inside j).irOut, next := (x.inside j).next } := by
  unfold Transmitter.inside
  split <;> rfl

@[simp] theorem Transmitter.inside_busy (x : Transmitter) (j : Nat) : (x.inside j).busy = x.busy := by
  rw [Transmitter.inside_frame]
@[simp] theorem Transmitter.inside_useBuf (x : Transmitter) (j : Nat) : (x.inside j).useBuf = x.useBuf := by
  rw [Transmitter.inside_frame]
@[simp] theorem Transmitter.inside_slot (x : Transmitter) (j : Nat) : (x.inside j).slot = x.slot := by
  rw [Transmitter.inside_frame]
@[simp] theorem Transmitter.inside_buf (x : Transmitter) (j : Nat) : (x.inside j).buf = x.buf := by
  rw [Transmitter.inside_frame]
@[simp] theorem Transmitter.inside_n (x : Transmitter) (j : Nat) : (x.inside j).n = x.n := by
  rw [Transmitter.inside_frame]
@[simp] theorem Transmitter.inside_idx (x : Transmitter) (j : Nat) : (x.inside j).idx = x.idx := by
  rw [Transmitter.inside_frame]
@[simp] theorem Transmitter.inside_half (x : Transmitter) (j : Nat) : (x.inside j).half = x.half := by
  rw [Transmitter.inside_frame]
@[simp] theorem Transmitter.inside_segStart (x : Transmitter) (j : Nat) : (x.inside j).segStart = x.segStart := by
  rw [Transmitter.inside_frame]

/-- Between two boundaries nothing moves. -/
theorem Transmitter.inside_succ_of_not_dvd {x : Transmitter} {j : Nat} (between : ¬ x.half.toNat ∣ j + 1) :
    x.inside (j + 1) = x.inside j := by
  unfold Transmitter.inside
  rw [Nat.succ_div_of_not_dvd between]

/-- At a boundary of a mark the output follows the parity, and the parity alternates (R185). -/
theorem Transmitter.inside_succ_of_dvd {x : Transmitter} {j : Nat} (mark : x.idx.toNat % 2 = 0)
    (boundary : x.half.toNat ∣ j + 1) :
    x.inside (j + 1) = { x.inside j with
      k := !(x.inside j).k, irOut := (x.inside j).k, next := x.segStart + BitVec.ofNat 32 (j + 1) + x.half } := by
  have next : x.half.toNat * ((j + 1) / x.half.toNat + 1) = j + 1 + x.half.toNat := by
    rw [Nat.mul_succ, Nat.mul_div_cancel' boundary]
  rw [Transmitter.inside_of_mark mark, Transmitter.inside_of_mark mark, next, Nat.succ_div_of_dvd boundary,
    BitVec.ofNat_add, BitVec.ofNat_toNat, BitVec.setWidth_eq, BitVec.add_assoc]
  simp only [Transmitter.mk.injEq, true_and, ← decide_not, decide_eq_decide]
  omega

/-- A segment just entered, with a half-period in the range of R187. -/
structure State.Entered (s : State) : Prop where
  entered : justEntered s
  half_pos : 1 ≤ s.tx.half.toNat
  half_le : s.tx.half.toNat ≤ 500000

section
variable {s : State} (e : s.Entered)
include e

theorem State.Entered.busy : s.tx.busy = true := e.entered.1

theorem State.Entered.segStart : s.tx.segStart = s.tb.now := by
  obtain ⟨-, -, -, start, -⟩ := e.entered
  exact start

theorem State.Entered.duration_pos : 0 < (s.seq s.tx.idx.toNat).toNat := by
  obtain ⟨-, -, notEmpty, -, -⟩ := e.entered
  exact Nat.pos_of_ne_zero fun zero => notEmpty (BitVec.eq_of_toNat_eq zero)

/-- A space just entered waits for its end (R183). -/
theorem State.Entered.next_of_space (space : ¬ s.tx.idx.toNat % 2 = 0) :
    s.tx.irOut = false ∧ s.tx.next = s.tb.now + BitVec.ofNat 32 (s.seq s.tx.idx.toNat).toNat := by
  obtain ⟨-, -, -, -, output⟩ := e.entered
  rw [if_neg space] at output
  rwa [BitVec.ofNat_toNat]

/-- A segment just entered is at its microsecond 0. -/
theorem State.Entered.inside_zero : s.tx.inside 0 = s.tx := by
  by_cases mark : s.tx.idx.toNat % 2 = 0
  · obtain ⟨-, -, -, start, output⟩ := e.entered
    rw [if_pos mark] at output
    obtain ⟨high, parity, next⟩ := output
    have start_next : s.tx.segStart + BitVec.ofNat 32 (s.tx.half.toNat * (0 / s.tx.half.toNat + 1)) = s.tx.next := by
      rw [Nat.zero_div, Nat.zero_add, Nat.mul_one, BitVec.ofNat_toNat, BitVec.setWidth_eq, start, next]
    rw [Transmitter.inside_of_mark mark, start_next, Nat.zero_div, ← show s.tx.irOut = decide (0 % 2 = 0) from high,
      ← show s.tx.k = decide (0 % 2 = 1) from parity]
  · exact Transmitter.inside_of_space mark 0

/-- The bounds of R188: a mark of at least its duration and less than a half-period more, in whole half-periods; a space of
exactly its duration. -/
theorem State.Entered.playTime_bounds :
    (s.tx.idx.toNat % 2 = 0 → (s.seq s.tx.idx.toNat).toNat ≤ s.playTime ∧
      s.playTime < (s.seq s.tx.idx.toNat).toNat + s.tx.half.toNat ∧ s.playTime % s.tx.half.toNat = 0) ∧
    (s.tx.idx.toNat % 2 = 1 → s.playTime = (s.seq s.tx.idx.toNat).toNat) := by
  refine ⟨fun mark => ?_, fun space => State.playTime_of_space (by omega)⟩
  obtain ⟨atLeast, below⟩ := markLength_bounds (s.seq s.tx.idx.toNat).toNat e.half_pos
  rw [State.playTime_of_mark mark]
  exact ⟨atLeast, below, Nat.mul_mod_right _ _⟩

theorem State.Entered.playTime_pos : 0 < s.playTime := by
  have := e.playTime_bounds
  have := e.duration_pos
  omega

/-- A segment is far shorter than a round of the 32-bit counter. -/
theorem State.Entered.playTime_lt : s.playTime < 2 ^ 20 := by
  have := e.playTime_bounds
  have := e.half_le
  have := (s.seq s.tx.idx.toNat).isLt
  omega

/-- Inside a mark the engine's next event is the next half-period boundary (R185). -/
theorem State.Entered.due_iff_of_mark (mark : s.tx.idx.toNat % 2 = 0) {j : Nat} (hj : j < s.playTime) :
    s.tb.now + BitVec.ofNat 32 (j + 1) = (s.tx.inside j).next ↔ s.tx.half.toNat ∣ j + 1 := by
  have := e.playTime_lt
  have := e.half_le
  have := Nat.mul_div_le j s.tx.half.toNat
  rw [Transmitter.inside_of_mark mark, e.segStart, time_inj (by omega) (by rw [Nat.mul_succ]; omega)]
  exact boundary_next_iff j

/-- Inside a space the engine's next event is its end (R183). -/
theorem State.Entered.due_iff_of_space (space : ¬ s.tx.idx.toNat % 2 = 0) {j : Nat} (hj : j < s.playTime) :
    s.tb.now + BitVec.ofNat 32 (j + 1) = (s.tx.inside j).next ↔ j + 1 = s.playTime := by
  have := e.playTime_lt
  obtain ⟨-, next⟩ := e.next_of_space space
  rw [Transmitter.inside_of_space space, next, ← State.playTime_of_space space, time_inj (by omega) (by omega)]

/-- At a half-period boundary up to its end, a mark goes on exactly where its length has not passed (R185, R186). -/
theorem State.Entered.markGoesOn_iff {c : State} {j : Nat} (tx : c.tx = s.tx.inside j) (seq : ∀ i, c.seq i = s.seq i)
    (mark : s.tx.idx.toNat % 2 = 0) (hj : j < s.playTime) (boundary : s.tx.half.toNat ∣ j + 1) :
    c.MarkGoesOn (s.tb.now + BitVec.ofNat 32 (j + 1)) ↔ j + 1 < s.playTime := by
  have := e.playTime_lt
  unfold State.MarkGoesOn
  rw [seq, tx, Transmitter.inside_idx, Transmitter.inside_segStart, e.segStart, elapsed_add_ofNat _ (by omega),
    State.playTime_of_mark mark, lt_markLength_iff e.half_pos boundary]
  exact and_iff_right mark

/-- The engine's step inside a segment (R185). -/
theorem State.Entered.txStep_inside {c : State} {j : Nat} (tx : c.tx = s.tx.inside j) (seq : ∀ i, c.seq i = s.seq i)
    (hj : j + 1 < s.playTime) :
    c.txStep (s.tb.now + BitVec.ofNat 32 (j + 1)) = c.setTx (s.tx.inside (j + 1)) := by
  have before : j < s.playTime := Nat.lt_of_succ_lt hj
  have busy : c.tx.busy = true := by rw [tx, Transmitter.inside_busy, e.busy]
  by_cases mark : s.tx.idx.toNat % 2 = 0
  · have due := e.due_iff_of_mark mark before
    rw [← tx] at due
    by_cases boundary : s.tx.half.toNat ∣ j + 1
    · rw [State.txStep_toggles busy (due.mpr boundary) ((e.markGoesOn_iff tx seq mark before boundary).mpr hj),
        Transmitter.inside_succ_of_dvd mark boundary, e.segStart, tx,
        Transmitter.inside_half]
    · rw [State.txStep_of_not_due (.inr (mt due.mp boundary)), Transmitter.inside_succ_of_not_dvd boundary, ← tx,
        State.setTx_same]
  · have due := e.due_iff_of_space mark before
    rw [← tx] at due
    rw [State.txStep_of_not_due (.inr (mt due.mp (Nat.ne_of_lt hj))), Transmitter.inside_of_space mark,
      ← Transmitter.inside_of_space mark j, ← tx, State.setTx_same]

/-- The engine's step at the segment's end (R185). -/
theorem State.Entered.txStep_end {c : State} {j : Nat} (tx : c.tx = s.tx.inside j) (seq : ∀ i, c.seq i = s.seq i)
    (hj : j + 1 = s.playTime) :
    c.txStep (s.tb.now + BitVec.ofNat 32 (j + 1)) =
      (c.setTx { c.tx with idx := c.tx.idx + 1 }).enterSegment (s.tb.now + BitVec.ofNat 32 (j + 1)) := by
  have before : j < s.playTime := by omega
  have busy : c.tx.busy = true := by rw [tx, Transmitter.inside_busy, e.busy]
  by_cases mark : s.tx.idx.toNat % 2 = 0
  · have boundary : s.tx.half.toNat ∣ j + 1 := by
      rw [hj, State.playTime_of_mark mark]
      exact Nat.dvd_mul_right _ _
    have due := (e.due_iff_of_mark mark before).mpr boundary
    refine State.txStep_leaves busy (by rw [tx]; exact due) fun goesOn => ?_
    exact Nat.ne_of_lt ((e.markGoesOn_iff tx seq mark before boundary).mp goesOn) hj
  · have due := (e.due_iff_of_space mark before).mpr hj
    refine State.txStep_leaves busy (by rw [tx]; exact due) fun goesOn => mark ?_
    have isMark := goesOn.1
    rwa [tx, Transmitter.inside_idx] at isMark

end

end Sys2Proof.Machine
end

section
/-! Runs of microseconds through a segment (spec/44_transmitter.md R185 to R188): the engine inside it, and at the microsecond
of its length the entry of the next segment. -/

namespace Sys2Proof.Machine
open Sys2Proof.Claims

/-- Capture does not touch TX_DONE (R189). -/
@[simp] theorem State.captureStep_txDone (s : State) (lvl : Bool) :
    (s.captureStep lvl).host.txDone = s.host.txDone := by
  obtain ⟨_, _, _, frame⟩ := s.captureStep_frame lvl
  rw [frame]

/-- A run of microseconds does not touch the bank (R189). -/
@[simp] theorem runMicroseconds_bank (levels : List Bool) (s : State) : (runMicroseconds levels s).bank = s.bank := by
  induction levels using List.reverseRecOn with
  | nil => rfl
  | append_singleton levels lvl ih =>
    rw [runMicroseconds_concat, State.microsecondStep_eq, State.txStep_bank, State.captureStep_bank, ih]

@[simp] theorem runMicroseconds_env (levels : List Bool) (s : State) : (runMicroseconds levels s).env = s.env := by
  induction levels using List.reverseRecOn with
  | nil => rfl
  | append_singleton levels lvl ih =>
    rw [runMicroseconds_concat, State.microsecondStep_eq, State.txStep_env, State.captureStep_env, ih]

/-- The time of the microsecond after a run, counted from the start (R111). -/
theorem captureStep_run_now (levels : List Bool) (lvl : Bool) (s : State) :
    ((runMicroseconds levels s).captureStep lvl).tb.now = s.tb.now + BitVec.ofNat 32 (levels.length + 1) := by
  rw [State.captureStep_now, runMicroseconds_now, BitVec.add_assoc, BitVec.ofNat_add]
  rfl

/-- The last microsecond of a run: its capture half, and the engine's step at the time counted from the start (R110). -/
theorem runMicroseconds_concat_txStep (levels : List Bool) (lvl : Bool) (s : State) :
    runMicroseconds (levels ++ [lvl]) s =
      ((runMicroseconds levels s).captureStep lvl).txStep (s.tb.now + BitVec.ofNat 32 (levels.length + 1)) := by
  rw [runMicroseconds_concat, State.microsecondStep_eq, ← State.captureStep_now _ lvl, captureStep_run_now]

/-- A run and then another. -/
theorem runMicroseconds_append (before after : List Bool) (s : State) :
    runMicroseconds (before ++ after) s = runMicroseconds after (runMicroseconds before s) :=
  List.foldl_append

/-- An idle transmitter stays as it is (R185). -/
theorem runMicroseconds_idle {s : State} (idle : s.tx.busy = false) (levels : List Bool) :
    (runMicroseconds levels s).tx = s.tx ∧ (runMicroseconds levels s).host.txDone = s.host.txDone := by
  induction levels using List.reverseRecOn with
  | nil => exact ⟨rfl, rfl⟩
  | append_singleton levels lvl ih =>
    obtain ⟨tx, done⟩ := ih
    rw [runMicroseconds_concat_txStep, State.txStep_of_not_due (.inl (by rw [State.captureStep_tx, tx, idle])),
      State.captureStep_tx, State.captureStep_txDone]
    exact ⟨tx, done⟩

/-- `v` plays what `s` plays, and is about to enter the segment after the one that `s` stands in (R183). -/
structure State.MovesOn (s v : State) : Prop where
  busy : v.tx.busy = true
  idx : v.tx.idx = s.tx.idx + 1
  n : v.tx.n = s.tx.n
  half : v.tx.half = s.tx.half
  seq : ∀ i, v.seq i = s.seq i
  txDone : v.host.txDone = s.host.txDone

/-- Where the engine is inside a segment of `s`, with the capture half of the next microsecond done, it plays what `s`
plays (R183, R189). -/
theorem State.seq_of_inside {s c : State} {j : Nat} (tx : c.tx = s.tx.inside j) (bank : c.bank = s.bank)
    (env : c.env = s.env) (i : Nat) : c.seq i = s.seq i :=
  State.seq_congr (by rw [tx, Transmitter.inside_useBuf]) (by rw [tx, Transmitter.inside_slot])
    (by rw [tx, Transmitter.inside_buf]) (by rw [bank]) (by rw [env]) i

/-- Stepping the index from inside the segment of `s` leads to the segment after it (R185). -/
theorem State.Entered.movesOn {s c : State} (e : s.Entered) {j : Nat} (tx : c.tx = s.tx.inside j)
    (seq : ∀ i, c.seq i = s.seq i) (done : c.host.txDone = s.host.txDone) :
    s.MovesOn (c.setTx { c.tx with idx := c.tx.idx + 1 }) where
  busy := by rw [State.setTx_tx, tx, Transmitter.inside_busy, e.busy]
  idx := by rw [State.setTx_tx, tx, Transmitter.inside_idx]
  n := by rw [State.setTx_tx, tx, Transmitter.inside_n]
  half := by rw [State.setTx_tx, tx, Transmitter.inside_half]
  seq := seq
  txDone := done

section
variable {s : State} (e : s.Entered)
include e

/-- The engine at each microsecond of a segment, whatever is sampled meanwhile (R185, R186). -/
theorem State.Entered.run_inside {levels : List Bool} (before : levels.length < s.playTime) :
    (runMicroseconds levels s).tx = s.tx.inside levels.length ∧
      (runMicroseconds levels s).host.txDone = s.host.txDone := by
  induction levels using List.reverseRecOn with
  | nil => exact ⟨e.inside_zero.symm, rfl⟩
  | append_singleton levels lvl ih =>
    rw [List.length_append, List.length_singleton] at before ⊢
    obtain ⟨tx, done⟩ := ih (by omega)
    have captured : ((runMicroseconds levels s).captureStep lvl).tx = s.tx.inside levels.length := by
      rw [State.captureStep_tx, tx]
    rw [runMicroseconds_concat_txStep,
      e.txStep_inside captured (State.seq_of_inside captured (by simp) (by simp)) before]
    exact ⟨rfl, by rw [State.setTx_host, State.captureStep_txDone, done]⟩

/-- At the microsecond of a segment's length the engine enters the next (R183, R185, R188). -/
theorem State.Entered.run_to_end {levels : List Bool} (atEnd : levels.length = s.playTime) :
    ∃ v, s.MovesOn v ∧ runMicroseconds levels s = v.enterSegment v.tb.now := by
  have positive := e.playTime_pos
  obtain rfl | ⟨levels, lvl, rfl⟩ := levels.eq_nil_or_concat'
  · exact absurd atEnd (Nat.ne_of_lt positive)
  · rw [List.length_append, List.length_singleton] at atEnd
    obtain ⟨tx, done⟩ := e.run_inside (levels := levels) (by omega)
    have captured : ((runMicroseconds levels s).captureStep lvl).tx = s.tx.inside levels.length := by
      rw [State.captureStep_tx, tx]
    have seq := State.seq_of_inside captured (by simp) (by simp)
    rw [runMicroseconds_concat_txStep, e.txStep_end captured seq atEnd, ← captureStep_run_now levels lvl]
    exact ⟨_, e.movesOn captured seq (by rw [State.captureStep_txDone, done]), rfl⟩

end

end Sys2Proof.Machine
end

section
/-! The waveform of a transmission (spec/44_transmitter.md R186): from the entry of any segment on, the engine plays the
segments that are left, by induction on them. -/

namespace Sys2Proof.Machine
open Sys2Proof.Claims

/-- The index `j` microseconds after the segments `d` began, the first of them of index `i` (R183, R186). -/
def segmentAt (h i : Nat) : List Nat → Nat → Nat
  | [], _ => i
  | d :: ds, j => if j < segmentLength h i d then i else segmentAt h (i + 1) ds (j - segmentLength h i d)

/-- The index never falls below that of the first segment. -/
theorem le_segmentAt (h i : Nat) (ds : List Nat) (j : Nat) : i ≤ segmentAt h i ds j := by
  induction ds generalizing i j with
  | nil => exact le_rfl
  | cons d ds ih =>
    unfold segmentAt
    split
    · exact le_rfl
    · exact Nat.le_of_succ_le (ih (i + 1) _)

/-- `t` is what the segments `d` leave `j` microseconds after they began, the first of them of index `i`, where TX_DONE was
`done` (R184, R186). -/
structure State.Plays (t : State) (h i : Nat) (ds : List Nat) (done : Bool) (j : Nat) : Prop where
  irOut : t.tx.irOut = waveform h i ds j
  busy : t.tx.busy = true ↔ j < totalLength h i ds
  txDone : t.host.txDone = (done || decide (totalLength h i ds ≤ j))
  idx : t.tx.idx.toNat = segmentAt h i ds j

/-- Past the first segment, the rest is played. -/
theorem State.Plays.cons {t : State} {h i d : Nat} {ds : List Nat} {done : Bool} {j : Nat}
    (past : segmentLength h i d ≤ j) (p : t.Plays h (i + 1) ds done (j - segmentLength h i d)) :
    t.Plays h i (d :: ds) done j where
  irOut := by rw [p.irOut, waveform, if_neg (Nat.not_lt.mpr past)]
  busy := by rw [p.busy, totalLength]; omega
  txDone := by
    have ended : totalLength h (i + 1) ds ≤ j - segmentLength h i d ↔ totalLength h i (d :: ds) ≤ j := by
      rw [totalLength]; omega
    rw [p.txDone, decide_eq_decide.mpr ended]
  idx := by rw [p.idx, segmentAt, if_neg (Nat.not_lt.mpr past)]

/-- An empty segment has no length (R183, R186). -/
theorem segmentLength_zero {h : Nat} (hh : 1 ≤ h) (i : Nat) : segmentLength h i 0 = 0 := by
  unfold segmentLength
  rw [Nat.zero_add, Nat.div_eq_of_lt (by omega), Nat.mul_zero, ite_self]

/-- The durations of the segments from the one at the index on. -/
def State.segments (s : State) : List Nat :=
  (List.range' s.tx.idx.toNat (s.tx.n.toNat - s.tx.idx.toNat)).map fun i => (s.seq i).toNat

/-- No segment is left exactly where the index has reached the number of segments. -/
theorem State.segments_eq_nil_iff (s : State) : s.segments = [] ↔ s.tx.n.toNat ≤ s.tx.idx.toNat := by
  rw [State.segments, List.map_eq_nil_iff, List.range'_eq_nil_iff]
  omega

/-- The next index, where there is a segment at this one. -/
theorem State.MovesOn.idx_toNat {s v : State} (m : s.MovesOn v) (inside : s.tx.idx.toNat < s.tx.n.toNat) :
    v.tx.idx.toNat = s.tx.idx.toNat + 1 := by
  have := s.tx.n.isLt
  rw [m.idx, BitVec.toNat_add_of_lt (by simp; omega)]
  rfl

/-- The segments left are the one at the index and those that are left after it. -/
theorem State.MovesOn.segments {s v : State} (m : s.MovesOn v) (inside : s.tx.idx.toNat < s.tx.n.toNat) :
    s.segments = (s.seq s.tx.idx.toNat).toNat :: v.segments := by
  have left : s.tx.n.toNat - s.tx.idx.toNat = s.tx.n.toNat - (s.tx.idx.toNat + 1) + 1 := by omega
  simp only [State.segments, m.seq, m.n, m.idx_toNat inside]
  rw [left, List.range'_succ, List.map_cons]

/-- Stepping the index leads to the segment after the present one. -/
theorem State.movesOn_setTx (s : State) (busy : s.tx.busy = true) (segStart : Word) (irOut : Bool) :
    s.MovesOn (s.setTx { s.tx with segStart := segStart, irOut := irOut, idx := s.tx.idx + 1 }) :=
  ⟨busy, rfl, rfl, rfl, State.seq_congr rfl rfl rfl rfl rfl, rfl⟩

/-- EnterSegment passes an empty segment by (R183). -/
theorem State.enterSegment_skip {s : State} (t : Word) (busy : s.tx.busy = true) (inside : s.tx.idx.toNat < s.tx.n.toNat)
    (empty : s.seq s.tx.idx.toNat = 0) : ∃ v, s.MovesOn v ∧ v.tb.now = s.tb.now ∧ s.enterSegment t = v.enterSegment t := by
  have turns : (s.tx.n - s.tx.idx).toNat = (s.tx.n - (s.tx.idx + 1)).toNat + 1 := by bv_omega
  have notEnd : s.tx.idx ≠ s.tx.n := fun h => by rw [h] at inside; exact Nat.lt_irrefl _ inside
  obtain ⟨out, skip⟩ := State.enterSegmentLoop_skip t (s.tx.n - (s.tx.idx + 1)).toNat s notEnd empty
  refine ⟨_, s.movesOn_setTx busy t out, rfl, ?_⟩
  unfold State.enterSegment
  rw [turns, skip]
  rfl

/-- EnterSegment enters a segment that is not empty (R183). -/
theorem State.enterSegment_enters {s : State} (inside : s.tx.idx.toNat < s.tx.n.toNat)
    (notEmpty : s.seq s.tx.idx.toNat ≠ 0) : s.enterSegment s.tb.now = s.enteredAt s.tb.now s.tx.idx.toNat :=
  s.enterSegment_stops _ _ le_rfl inside notEmpty fun _ reached below => absurd below (Nat.not_lt.mpr reached)

/-- The segment entered is the one at the index. -/
theorem State.enteredAt_idx (s : State) (t : Word) : (s.enteredAt t s.tx.idx.toNat).tx.idx = s.tx.idx := by
  rw [State.enteredAt, State.setTx_tx, BitVec.ofNat_toNat, BitVec.setWidth_eq]

/-- After the segment entered comes the one after the index. -/
theorem State.MovesOn.of_enteredAt {s v : State} {t : Word} (m : (s.enteredAt t s.tx.idx.toNat).MovesOn v) :
    s.MovesOn v where
  busy := m.busy
  idx := by rw [m.idx, State.enteredAt_idx]
  n := m.n
  half := m.half
  seq i := by rw [m.seq, State.enteredAt_seq]
  txDone := m.txDone

/-- A segment that EnterSegment enters is one just entered. -/
theorem State.justEntered_enteredAt {s : State} (busy : s.tx.busy = true) (inside : s.tx.idx.toNat < s.tx.n.toNat)
    (notEmpty : s.seq s.tx.idx.toNat ≠ 0) : justEntered (s.enteredAt s.tb.now s.tx.idx.toNat) := by
  unfold justEntered
  simp only [State.enteredAt_seq]
  simp only [State.enteredAt, State.setTx_tx, State.setTx_tb, BitVec.ofNat_toNat, BitVec.setWidth_eq]
  refine ⟨busy, inside, notEmpty, trivial, ?_⟩
  split
  · next mark => exact ⟨decide_eq_true mark, rfl, rfl⟩
  · next space => exact ⟨decide_eq_false space, rfl⟩

/-- The output inside a segment is the segment's square wave, or low (R186). -/
theorem State.Entered.inside_irOut {s : State} (e : s.Entered) (j : Nat) :
    (s.tx.inside j).irOut = decide (s.tx.idx.toNat % 2 = 0 ∧ j / s.tx.half.toNat % 2 = 0) := by
  by_cases mark : s.tx.idx.toNat % 2 = 0
  · simp [Transmitter.inside_of_mark, mark]
  · obtain ⟨low, -⟩ := e.next_of_space mark
    simp [Transmitter.inside_of_space, mark, low]

/-- A segment just entered is played, and then the segments after it (R186). -/
theorem State.Entered.plays {s : State} (e : s.Entered) {ds : List Nat} {levels : List Bool}
    (after : ∀ v later, s.MovesOn v → (runMicroseconds later (v.enterSegment v.tb.now)).Plays s.tx.half.toNat
      (s.tx.idx.toNat + 1) ds s.host.txDone later.length) :
    (runMicroseconds levels s).Plays s.tx.half.toNat s.tx.idx.toNat ((s.seq s.tx.idx.toNat).toNat :: ds) s.host.txDone
      levels.length := by
  by_cases before : levels.length < s.playTime
  · obtain ⟨tx, done⟩ := e.run_inside before
    have notEnd : levels.length < totalLength s.tx.half.toNat s.tx.idx.toNat ((s.seq s.tx.idx.toNat).toNat :: ds) :=
      Nat.lt_add_right _ before
    refine ⟨?_, ?_, ?_, ?_⟩
    · rw [tx, e.inside_irOut]
      exact (if_pos before).symm
    · rw [tx, Transmitter.inside_busy, e.busy]
      exact iff_of_true rfl notEnd
    · rw [done, decide_eq_false (Nat.not_le.mpr notEnd), Bool.or_false]
    · rw [tx, Transmitter.inside_idx]
      exact (if_pos before).symm
  · have past : s.playTime ≤ levels.length := Nat.not_lt.mp before
    obtain ⟨v, moved, ended⟩ := e.run_to_end (levels := levels.take s.playTime) (List.length_take_of_le past)
    have rest := after v (levels.drop s.playTime) moved
    rw [← ended, ← runMicroseconds_append, List.take_append_drop, List.length_drop] at rest
    exact .cons past rest

/-- EnterSegment plays the segments left from the index on (R183, R186): it ends where there is none, passes an empty one
by, and enters any other. -/
theorem State.enterSegment_plays (ds : List Nat) {s : State} (segments : s.segments = ds) (busy : s.tx.busy = true)
    (half_pos : 1 ≤ s.tx.half.toNat) (half_le : s.tx.half.toNat ≤ 500000) (le : s.tx.idx.toNat ≤ s.tx.n.toNat)
    (levels : List Bool) :
    (runMicroseconds levels (s.enterSegment s.tb.now)).Plays s.tx.half.toNat s.tx.idx.toNat ds s.host.txDone
      levels.length := by
  induction ds generalizing s levels with
  | nil =>
    have atEnd := s.segments_eq_nil_iff.mp segments
    rw [s.enterSegment_ends _ le fun i reached below => absurd below (by omega)]
    obtain ⟨tx, done⟩ := runMicroseconds_idle (s := { s with
      tx := { s.tx with
        idx := s.tx.n, segStart := if s.tx.idx = s.tx.n then s.tx.segStart else s.tb.now, irOut := false, busy := false }
      host := { s.host with txDone := true } }) rfl levels
    refine ⟨by rw [tx]; rfl, by rw [tx]; simp [totalLength], by rw [done]; simp [totalLength], ?_⟩
    rw [tx]
    exact Nat.le_antisymm atEnd le
  | cons d ds ih =>
    have inside : s.tx.idx.toNat < s.tx.n.toNat := by
      refine Nat.not_le.mp fun atEnd => ?_
      rw [s.segments_eq_nil_iff.mpr atEnd] at segments
      cases segments
    have after : ∀ v later, s.MovesOn v → (runMicroseconds later (v.enterSegment v.tb.now)).Plays s.tx.half.toNat
        (s.tx.idx.toNat + 1) ds s.host.txDone later.length := by
      intro v later moved
      obtain ⟨-, left⟩ := List.cons.inj ((moved.segments inside).symm.trans segments)
      have played := ih left moved.busy (by rwa [moved.half]) (by rwa [moved.half])
        (by rwa [moved.idx_toNat inside, moved.n]) later
      rwa [moved.half, moved.idx_toNat inside, moved.txDone] at played
    have moves := s.movesOn_setTx busy s.tx.segStart s.tx.irOut
    obtain ⟨duration, -⟩ := List.cons.inj ((moves.segments inside).symm.trans segments)
    by_cases empty : s.seq s.tx.idx.toNat = 0
    · obtain ⟨v, moved, now, skipped⟩ := State.enterSegment_skip s.tb.now busy inside empty
      have noLength : segmentLength s.tx.half.toNat s.tx.idx.toNat d = 0 := by
        rw [← duration, empty]
        exact segmentLength_zero half_pos _
      refine .cons (by omega) ?_
      rw [noLength, Nat.sub_zero, skipped, ← now]
      exact after v levels moved
    · have entered : (s.enteredAt s.tb.now s.tx.idx.toNat).Entered :=
        ⟨State.justEntered_enteredAt busy inside empty, half_pos, half_le⟩
      have played := entered.plays (ds := ds) (levels := levels) fun v later moved => by
        rw [State.enteredAt_idx]
        exact after v later moved.of_enteredAt
      rw [State.enteredAt_idx, State.enteredAt_seq, duration] at played
      rw [State.enterSegment_enters inside empty]
      exact played

end Sys2Proof.Machine
end

section
/-! What a transmission plays (spec/44_transmitter.md R186, R188, R195): the waveform of its sequence, each segment within the
bounds, and the same from a copy in TxBuf as from the slot. -/

namespace Sys2Proof.Machine
open Sys2Proof.Claims

/-- The segments left right after the start is latched are the whole sequence (R183). -/
theorem State.segments_latch (s : State) (useBuf : Bool) (slot : SlotNo) :
    (s.latch useBuf slot).segments = sequenceOf s useBuf slot := by
  rw [sequenceOf_eq_latch, List.range_eq_range']
  rfl

/-- An accepted start plays its sequence from the first segment on, with the half-period of its carrier (R180, R186). -/
theorem txStart_plays {s : State} {useBuf : Bool} {slot : SlotNo} (accepted : ¬ transmitRefused s useBuf slot.toNat)
    (levels : List Bool) :
    (runMicroseconds levels (txStart useBuf slot s)).Plays (1000000 / (2 * s.tx.carrier.toNat)) 0
      (sequenceOf s useBuf slot) s.host.txDone levels.length := by
  obtain ⟨-, -, carrier, high⟩ := by simpa only [transmitRefused, not_or, not_lt] using accepted
  obtain ⟨half_pos, half_le⟩ := halfPeriod_bounds carrier high
  rw [txStart_eq_enterSegment accepted, ← halfPeriod_toNat]
  exact State.enterSegment_plays _ (s.segments_latch useBuf slot) rfl half_pos half_le (Nat.zero_le _) levels

/-- Settles O51: the start is an entry of the first segment, and what is played from there is the waveform. -/
theorem transmittedWaveform : Obligations.TransmittedWaveform := by
  intro s s' useBuf slot levels accepted noSlot started
  rw [exec_transmit noSlot, Host.Outcome.next.injEq] at started
  subst started
  obtain ⟨irOut, busy, txDone, -⟩ := txStart_plays accepted levels
  exact ⟨irOut, busy, txDone⟩

/-- EnterSegment never steps the index back (R183). -/
theorem State.idx_le_enterSegment {s : State} (busy : s.tx.busy = true) (half_pos : 1 ≤ s.tx.half.toNat)
    (half_le : s.tx.half.toNat ≤ 500000) (le : s.tx.idx.toNat ≤ s.tx.n.toNat) :
    s.tx.idx.toNat ≤ (s.enterSegment s.tb.now).tx.idx.toNat := by
  obtain ⟨-, -, -, idx⟩ := State.enterSegment_plays _ rfl busy half_pos half_le le []
  exact idx ▸ le_segmentAt _ _ _ _

/-- Settles O52: `State.playTime` is the length, inside it the engine plays the segment, and at its end it enters the
next. -/
theorem segmentLengthBounds : Obligations.SegmentLengthBounds := by
  intro s levels entered half_pos half_le h i d run
  have e : s.Entered := ⟨entered, half_pos, half_le⟩
  obtain ⟨-, inside, -⟩ := id entered
  obtain ⟨markBounds, spaceLength⟩ := e.playTime_bounds
  refine ⟨s.playTime, markBounds, spaceLength, fun j before within => ?_, fun within => ?_⟩
  · have length : (levels.take j).length = j := List.length_take_of_le within
    obtain ⟨tx, -⟩ := e.run_inside (levels := levels.take j) (by rwa [length])
    rw [length] at tx
    refine ⟨?_, ?_, ?_⟩
    · rw [tx, Transmitter.inside_busy, e.busy]
    · rw [tx, Transmitter.inside_idx]
    · rw [tx]
      exact e.inside_irOut j
  · obtain ⟨v, moved, ended⟩ := e.run_to_end (levels := levels.take s.playTime) (List.length_take_of_le within)
    have idx := moved.idx_toNat inside
    have half_pos' : 1 ≤ v.tx.half.toNat := by rwa [moved.half]
    have half_le' : v.tx.half.toNat ≤ 500000 := by rwa [moved.half]
    simp only [run, ended]
    refine ⟨?_, fun more notEmpty => ?_⟩
    · have forward := State.idx_le_enterSegment moved.busy half_pos' half_le' (by rwa [idx, moved.n])
      exact Nat.lt_of_lt_of_le (by rw [idx]; exact Nat.lt_succ_self _) forward
    · have inside' : v.tx.idx.toNat < v.tx.n.toNat := by rwa [idx, moved.n]
      have notEmpty' : v.seq v.tx.idx.toNat ≠ 0 := by rwa [idx, moved.seq]
      rw [State.enterSegment_enters inside' notEmpty', State.enteredAt_idx]
      exact ⟨idx, State.justEntered_enteredAt moved.busy inside' notEmpty'⟩

/-- A copy of a slot's entries is the slot's sequence (R195). -/
theorem sequenceOf_copy {s : State} {k : SlotNo} (count : s.tx.count = (s.slotAt k.toNat).count)
    (copied : ∀ i < s.tx.count.toNat, s.txEntry i = s.bankEntry k.toNat i) :
    sequenceOf s true 0 = sequenceOf s false k := by
  unfold sequenceOf
  rw [if_pos rfl, if_neg Bool.false_ne_true, ← count]
  refine List.map_congr_left fun i hi => ?_
  rw [copied i (List.mem_range.mp hi)]

/-- Settles O53: both play the same sequence with the same half-period. -/
theorem bufferCopyPlaysLikeTheSlot : Obligations.BufferCopyPlaysLikeTheSlot := by
  intro s b1 b2 k levels accepted count copied bank buf
  have acceptedBuf : ¬ transmitRefused s true (0 : SlotNo).toNat := by
    simp only [transmitRefused, not_or] at accepted ⊢
    obtain ⟨idle, -, carrier⟩ := accepted
    exact ⟨idle, by simp, carrier⟩
  obtain rfl : txStart false k s = b1 := Host.Outcome.next.inj bank
  obtain rfl : txStart true 0 s = b2 := Host.Outcome.next.inj buf
  have fromSlot := txStart_plays accepted levels
  have fromBuf := txStart_plays acceptedBuf levels
  rw [sequenceOf_copy count copied] at fromBuf
  refine ⟨fromSlot.irOut.trans fromBuf.irOut.symm, ?_, BitVec.eq_of_toNat_eq (fromSlot.idx.trans fromBuf.idx.symm)⟩
  rw [Bool.eq_iff_iff]
  exact fromSlot.busy.trans fromBuf.busy.symm

end Sys2Proof.Machine
end

section
/-! The host interface (spec/45_host_interface.md R210, R214, R215, R218): the STATUS word bit by bit, its write-1-to-clear,
and the sticky flags through every event (spec/60_exceptions.md R240): every event but a write of STATUS and hardware reset
keeps the flags that are set. -/

namespace Sys2Proof.Machine
open Sys2Proof.Claims

/-- Settles O6: the listed access is run at its offset of the window. -/
theorem stepRunsDecodedAccess : Obligations.StepRunsDecodedAccess :=
  fun _ _ _ _ _ head running addr decoded => step_of_access head running addr decoded

/-- Settles O33: NOP is the command of the word 0, and the dispatch performs it. -/
theorem nopDoesNothing : Obligations.NopDoesNothing :=
  ⟨decodeItem_encode .nop, fun s => ⟨rfl, (command_runs (i := .nop) rfl s).2⟩⟩

/-! ### The STATUS word -/

/-- A one-bit field at the low end of a word (R8). -/
theorem getLsbD_append_bit {n : Nat} (x : BitVec n) (p : Bool) : (x ++ bit p).getLsbD 0 = p := by
  rw [BitVec.getLsbD_append]
  simp [bit]

/-- The bits within the field that a word ends in. -/
theorem getLsbD_append_within {n m : Nat} (x : BitVec n) (y : BitVec m) {b : Nat} (h : b < m) :
    (x ++ y).getLsbD b = y.getLsbD b := by
  rw [BitVec.getLsbD_append, if_pos h]

/-- The bits above a field are those of the word that it ends. -/
theorem getLsbD_append_above {n m : Nat} (x : BitVec n) (y : BitVec m) (b : Nat) :
    (x ++ y).getLsbD (b + m) = x.getLsbD b := by
  rw [BitVec.getLsbD_append, if_neg (by omega), Nat.add_sub_cancel]

/-- STATUS.COLLECT_RESULT, low bit (R26, R31). -/
theorem CollectResult.code_getLsbD_zero (r : CollectResult) :
    r.code.getLsbD 0 = decide (r = .stored ∨ r = .full) := by
  cases r <;> decide

/-- STATUS.COLLECT_RESULT, high bit (R26, R31). -/
theorem CollectResult.code_getLsbD_one (r : CollectResult) :
    r.code.getLsbD 1 = decide (r = .discarded ∨ r = .full) := by
  cases r <;> decide

/-- The STATUS word, bit by bit (R31): the fields below a bit are taken off one by one, until it lies in its own. -/
theorem State.statusWord_getLsbD (s : State) (b : Nat) : s.statusWord.getLsbD b = statusBit s b := by
  by_cases reserved : 21 ≤ b
  · obtain ⟨k, rfl⟩ := Nat.exists_eq_add_of_le' reserved
    simp only [State.statusWord, getLsbD_append_above, BitVec.getLsbD_zero]
    rfl
  · interval_cases b <;>
      simp (disch := decide) only [statusBit, State.statusWord, State.bankFull, getLsbD_append_bit,
        getLsbD_append_above (m := 1), getLsbD_append_above (m := 2), getLsbD_append_above (m := 6),
        getLsbD_append_within _ (CollectResult.code _), getLsbD_append_within _ 0#6,
        CollectResult.code_getLsbD_zero, CollectResult.code_getLsbD_one, BitVec.getLsbD_zero]

/-- Settles O35: the word returned is the STATUS word. -/
theorem statusWordBits : Obligations.StatusWordBits :=
  ⟨fun _ => rfl, fun s => ⟨s.statusWord, rfl, s.statusWord_getLsbD⟩⟩

/-! ### The sticky flags -/

/-- Write-1-to-clear on any bit of STATUS (R215). -/
theorem State.clearSticky_sticky (s : State) (w : Word) (b : Nat) :
    sticky (s.clearSticky w).host b = if w.getLsbD b then false else sticky s.host b := by
  have cleared : ∀ flag : Bool, clearedBy flag w b = if w.getLsbD b then false else flag := fun flag => by
    cases h : w.getLsbD b <;> simp [clearedBy, h]
  unfold sticky
  split
  case h_6 => exact (ite_self false).symm
  all_goals exact cleared _

/-- Settles O36: the other fields of the state are not written. -/
theorem statusWriteOneToClear : Obligations.StatusWriteOneToClear :=
  ⟨fun _ => rfl, fun w s => ⟨s.clearSticky w, rfl, rfl, s.clearSticky_sticky w⟩⟩

/-- Every sticky flag set in `h` is set in `h'` (R240). -/
structure HostRegs.FlagsKept (h h' : HostRegs) : Prop where
  long : h.long = true → h'.long = true
  lost : h.lost = true → h'.lost = true
  txDone : h.txDone = true → h'.txDone = true
  cmdErr : h.cmdErr = true → h'.cmdErr = true
  accErr : h.accErr = true → h'.accErr = true

/-- Kept flags, by their bits of STATUS (R31). -/
theorem HostRegs.FlagsKept.sticky {h h' : HostRegs} (kept : h.FlagsKept h') {b : Nat} (isSet : sticky h b = true) :
    sticky h' b = true := by
  unfold Claims.sticky at isSet ⊢
  split at isSet
  · exact kept.long isSet
  · exact kept.lost isSet
  · exact kept.txDone isSet
  · exact kept.cmdErr isSet
  · exact kept.accErr isSet
  · cases isSet

theorem HostRegs.FlagsKept.refl (h : HostRegs) : h.FlagsKept h := ⟨id, id, id, id, id⟩

/-- Flags kept by one event and by the next are kept by both. -/
theorem HostRegs.FlagsKept.trans {h h' h'' : HostRegs} (k : h.FlagsKept h') (k' : h'.FlagsKept h'') : h.FlagsKept h'' where
  long := k'.long ∘ k.long
  lost := k'.lost ∘ k.lost
  txDone := k'.txDone ∘ k.txDone
  cmdErr := k'.cmdErr ∘ k.cmdErr
  accErr := k'.accErr ∘ k.accErr

/-- Setting LONG keeps the flags (R123); the lemmas below are the same for the other four. -/
theorem HostRegs.flagsKept_setLong (h : HostRegs) : h.FlagsKept { h with long := true } :=
  ⟨fun _ => rfl, id, id, id, id⟩
theorem HostRegs.flagsKept_orLost (h : HostRegs) (p : Bool) : h.FlagsKept { h with lost := h.lost || p } :=
  ⟨id, fun isSet => by simp [isSet], id, id, id⟩
theorem HostRegs.flagsKept_setTxDone (h : HostRegs) : h.FlagsKept { h with txDone := true } :=
  ⟨id, id, fun _ => rfl, id, id⟩
theorem HostRegs.flagsKept_setCmdErr (h : HostRegs) : h.FlagsKept { h with cmdErr := true } :=
  ⟨id, id, id, fun _ => rfl, id⟩
theorem HostRegs.flagsKept_setAccErr (h : HostRegs) : h.FlagsKept { h with accErr := true } :=
  ⟨id, id, id, id, fun _ => rfl⟩

/-! ### The sticky flags through a microsecond -/

/-- Classifying a duration sets LONG at most (R123). -/
theorem State.inCapture_flagsKept (s : State) (t : Word) : s.host.FlagsKept (s.inCapture t).host := by
  obtain ⟨-, -, -, append⟩ | ⟨-, -, -, finalise⟩ | ⟨-, -, long⟩ | ⟨-, -, short⟩ := s.inCapture_cases t
  · rw [append]; exact .refl _
  · rw [finalise]; exact .refl _
  · rw [long]; exact s.host.flagsKept_setLong
  · rw [short]; exact .refl _

/-- An accepted edge sets LONG or LOST at most (R121 to R123). -/
theorem State.acceptedEdge_flagsKept (s : State) (t : Word) (lvl : Bool) :
    s.host.FlagsKept (s.acceptedEdge t lvl).host := by
  cases h : s.cap.capturing with
  | true =>
    rw [State.acceptedEdge_capturing t lvl h]
    exact State.inCapture_flagsKept (s.setCap { s.cap with lastDb := t }) t
  | false =>
    cases lvl with
    | true => rw [State.acceptedEdge_rising t h]; exact .refl _
    | false => rw [State.acceptedEdge_falling t h]; exact s.host.flagsKept_orLost _

/-- The capture half of a microsecond clears no flag (R110). -/
theorem State.captureStep_flagsKept (s : State) (lvl : Bool) : s.host.FlagsKept (s.captureStep lvl).host := by
  rw [State.captureStep_host]
  split
  · exact s.acceptedEdge_flagsKept _ lvl
  · exact .refl _

/-- EnterSegment sets TX_DONE at most: every turn moves the engine, or ends the transmission (R183, R184). -/
theorem State.enterSegmentLoop_flagsKept (t : Word) (left : Nat) (s : State) :
    s.host.FlagsKept (State.enterSegmentLoop t left s).host := by
  induction left generalizing s with
  | zero => exact s.host.flagsKept_setTxDone
  | succ left ih =>
    by_cases atEnd : s.tx.idx = s.tx.n
    · rw [State.enterSegmentLoop, if_pos atEnd]
      exact s.host.flagsKept_setTxDone
    · by_cases empty : s.seq s.tx.idx.toNat = 0
      · obtain ⟨irOut, skip⟩ := State.enterSegmentLoop_skip t left s atEnd empty
        rw [skip]
        exact ih (s.setTx { s.tx with segStart := t, irOut := irOut, idx := s.tx.idx + 1 })
      · simp only [State.enterSegmentLoop, if_neg atEnd, if_neg empty]
        split <;> exact .refl _

/-- The engine's step clears no flag (R185). -/
theorem State.txStep_flagsKept (s : State) (t : Word) : s.host.FlagsKept (s.txStep t).host := by
  unfold State.txStep
  split
  · exact .refl _
  · split
    · exact .refl _
    · exact State.enterSegmentLoop_flagsKept t _ (s.setTx { s.tx with idx := s.tx.idx + 1 })

/-- A microsecond clears no flag, whether or not `rst` is asserted (R110, R261). -/
theorem State.passMicrosecond_flagsKept (s : State) (lvl : Bool) : s.host.FlagsKept (s.passMicrosecond lvl).host := by
  rw [State.passMicrosecond_frame]
  split
  · exact .refl _
  · exact (s.captureStep_flagsKept lvl).trans (State.txStep_flagsKept _ _)

/-- A microsecond with a free level of `ir_in` clears no flag (R112). -/
theorem freeMicrosecond_flagsKept (s : State) : s.host.FlagsKept (freeMicrosecond s).host :=
  State.passMicrosecond_flagsKept (s.setEnv { s.env with freeCtr := s.env.freeCtr + 1 }) _

/-! ### The sticky flags through an access -/

/-- COLLECT touches no flag (R162). -/
theorem cmdCollect_flagsKept (s : State) : s.host.FlagsKept (cmdCollect s).host := by
  obtain ⟨_, _, frame⟩ := cmdCollect_frame s
  rw [frame]
  exact .refl _

/-- A transmit command sets CMD_ERR where it is refused, and TX_DONE at most where it is accepted (R180). -/
theorem txStart_flagsKept (useBuf : Bool) (slot : SlotNo) (s : State) : s.host.FlagsKept (txStart useBuf slot s).host := by
  cases h : s.txStartRefused useBuf slot with
  | true => rw [txStart_refused _ _ _ h]; exact s.host.flagsKept_setCmdErr
  | false =>
    rw [txStart_accepted _ _ _ h]
    exact State.enterSegmentLoop_flagsKept s.tb.now _ (s.latch useBuf slot)

/-- No command clears a flag (R217). -/
theorem runCommand_flagsKept (w : Word) (s : State) : s.host.FlagsKept (runCommand w s).host := by
  unfold runCommand
  split
  · exact s.host.flagsKept_setCmdErr
  · split
    case h_5 => exact cmdCollect_flagsKept s
    case h_6 => exact txStart_flagsKept _ _ s
    case h_7 => exact txStart_flagsKept _ _ s
    all_goals exact .refl _

/-- A refused access clears no flag (R242). -/
theorem State.refuseAccess_flagsKept (s : State) (write : Bool) : s.host.FlagsKept (s.refuseAccess write).host := by
  rw [State.refuseAccess_eq]
  exact s.host.flagsKept_setAccErr

/-- An instruction keeps the flags that are set, unless it is a write of STATUS (R215, R240). -/
theorem exec_flagsKept_or_wrStatus {i : Instr} {s t : State} (h : exec i s = .next t) :
    s.host.FlagsKept t.host ∨ ∃ w, i = .wrStatus w ∧ t = s.clearSticky w := by
  cases i with
  | wrStatus w => cases h; exact .inr ⟨w, rfl, rfl⟩
  | wrCmd w => cases h; exact .inl (runCommand_flagsKept w s)
  | wrTxCount w | wrTxData w =>
    cases h
    left
    split
    · exact s.host.flagsKept_setAccErr
    · exact .refl _
  | collect => cases h; exact .inl (cmdCollect_flagsKept s)
  | txBank slot => cases h; exact .inl (txStart_flagsKept false slot s)
  | txBuf => cases h; exact .inl (txStart_flagsKept true 0 s)
  | _ => cases h; exact .inl ⟨id, id, id, id, id⟩

/-- Settles O19, by the kinds of event a step can take: where none but a write of STATUS or a hardware reset stands, the flag
is kept. -/
theorem stickyFlagsStayUntilCleared : Obligations.StickyFlagsStayUntilCleared := by
  intro s t b hstep isSet cleared
  have notKept : ¬ s.host.FlagsKept t.host := fun kept => by
    rw [kept.sticky isSet] at cleared
    cases cleared
  obtain ⟨-, rfl⟩ | ⟨lvl, rest, -, rfl⟩ | ⟨level, rest, hin, rfl⟩ | ⟨a, rest, _, -, -, -, rfl⟩ |
    ⟨a, rest, _, _, -, -, -, -, rfl⟩ | ⟨a, rest, offset, i, hin, inWindow, -, decoded, hexec⟩ := step_cases hstep
  · exact absurd (freeMicrosecond_flagsKept s) notKept
  · exact absurd (State.passMicrosecond_flagsKept (s.setInputs rest) lvl) notKept
  · obtain ⟨asserted, -⟩ | ⟨-, asserted, -⟩ | ⟨-, -, unchanged⟩ := (s.setInputs rest).driveRst_cases level
    · exact .inr ⟨level, rest, hin, .inl asserted⟩
    · exact .inr ⟨level, rest, hin, .inr asserted⟩
    · rw [unchanged] at notKept
      exact absurd (.refl _) notKept
  · refine absurd ?_ notKept
    split <;> exact .refl _
  · exact absurd (State.refuseAccess_flagsKept (s.setInputs rest) a.write) notKept
  · obtain kept | ⟨w, rfl, rfl⟩ := exec_flagsKept_or_wrStatus hexec
    · exact absurd kept notKept
    · refine .inl ⟨a, rest, offset, w, hin, inWindow, decoded, ?_⟩
      rw [State.clearSticky_sticky] at cleared
      by_contra notCleared
      rw [if_neg notCleared] at cleared
      exact absurd (isSet.symm.trans cleared) (by simp)

end Sys2Proof.Machine
end

section
/-! The interrupt line (spec/60_exceptions.md R243). -/

namespace Sys2Proof.Machine
open Sys2Proof.Claims

/-- The sticky flags that are set, by their bits of STATUS (R28, R31). -/
theorem sticky_eq_true_iff (h : HostRegs) (b : Nat) :
    sticky h b = true ↔ (b = 16 ∧ h.long = true) ∨ (b = 17 ∧ h.lost = true) ∨ (b = 18 ∧ h.txDone = true) ∨
      (b = 19 ∧ h.cmdErr = true) ∨ (b = 20 ∧ h.accErr = true) := by
  unfold sticky
  split
  case h_6 =>
    simp only [imp_false] at *
    simp [*]
  all_goals simp

/-- The interrupt line as the six sources it combines, each with its enable (R243). -/
theorem State.irq_eq_true_iff (s : State) :
    s.irq = true ↔
      (s.host.irqEn.getLsbD 1 = true ∧ s.cap.ready = true) ∨ (s.host.irqEn.getLsbD 16 = true ∧ s.host.long = true) ∨
      (s.host.irqEn.getLsbD 17 = true ∧ s.host.lost = true) ∨ (s.host.irqEn.getLsbD 18 = true ∧ s.host.txDone = true) ∨
      (s.host.irqEn.getLsbD 19 = true ∧ s.host.cmdErr = true) ∨
      (s.host.irqEn.getLsbD 20 = true ∧ s.host.accErr = true) := by
  simp only [State.irq, Bool.or_eq_true, Bool.and_eq_true]
  tauto

/-- Settles O38: READY is the source of bit 1, and each sticky flag that of its own bit. -/
theorem interruptLineIsTheEnabledPendingSources : Obligations.InterruptLineIsTheEnabledPendingSources := by
  intro s
  simp only [State.irq_eq_true_iff, sticky_eq_true_iff]
  constructor
  · rintro (⟨enabled, pending⟩ | ⟨enabled, pending⟩ | ⟨enabled, pending⟩ | ⟨enabled, pending⟩ | ⟨enabled, pending⟩ |
      ⟨enabled, pending⟩)
    all_goals exact ⟨_, enabled, by simp [pending]⟩
  · rintro ⟨b, enabled, ⟨rfl, pending⟩ | ⟨rfl, pending⟩ | ⟨rfl, pending⟩ | ⟨rfl, pending⟩ | ⟨rfl, pending⟩ | ⟨rfl, pending⟩⟩
    all_goals simp [enabled, pending]

end Sys2Proof.Machine
end

section
/-! The two errors (spec/60_exceptions.md R240 to R242): an instruction raises CmdError or AccError for the causes of R241 and
R242 and has no other effect then, and otherwise raises neither; and so does a host access, whether or not it decodes. -/

namespace Sys2Proof.Machine
open Sys2Proof.Claims

/-! ### The causes -/

/-- The instruction is a command that is refused, or a CMD write of an illegal word or of a refused command (R241). -/
def State.RefusesCommand (s : State) : Instr → Prop
  | .wrCmd w => illegalCommand w ∨
      (w.toNat % 256 = 5 ∧ transmitRefused s false (w.toNat / 256 % 256)) ∨
      (w.toNat % 256 = 6 ∧ transmitRefused s true 0)
  | .txBank slot => transmitRefused s false slot.toNat
  | .txBuf => transmitRefused s true 0
  | _ => False

/-- The instruction is a write of TX_COUNT or TX_DATA that is refused (R191, R193, R242). -/
def State.RefusesData (s : State) : Instr → Prop
  | .wrTxCount w => s.tx.busy = true ∨ s.cfg.capacity < w.toNat
  | .wrTxData w => s.tx.busy = true ∨ s.cfg.capacity ≤ s.tx.index.toNat ∨ 65536 ≤ w.toNat
  | _ => False

/-- A write of TX_COUNT is accepted while the transmitter is idle, of a count within the buffer (R191). -/
theorem State.refusesData_wrTxCount_iff (s : State) (w : Word) :
    s.RefusesData (.wrTxCount w) ↔ ¬ (s.tx.busy = false ∧ w.toNat ≤ s.cfg.capacity) := by
  rw [State.RefusesData, not_and_or, Bool.not_eq_false, Nat.not_le]

/-- A write of TX_DATA is accepted while the transmitter is idle, inside the buffer, of a value of 16 bits (R193). -/
theorem State.refusesData_wrTxData_iff (s : State) (w : Word) :
    s.RefusesData (.wrTxData w) ↔
      ¬ (s.tx.busy = false ∧ s.tx.index.toNat < s.cfg.capacity ∧ w.toNat < 65536) := by
  rw [State.RefusesData, not_and_or, not_and_or, Bool.not_eq_false, Nat.not_lt, Nat.not_lt]

/-- Neither error flag is set in `h'` that is clear in `h`. -/
structure HostRegs.NoErrorRaised (h h' : HostRegs) : Prop where
  cmdErr : h'.cmdErr = true → h.cmdErr = true
  accErr : h'.accErr = true → h.accErr = true

theorem HostRegs.NoErrorRaised.refl (h : HostRegs) : h.NoErrorRaised h := ⟨id, id⟩

/-! ### What each instruction raises -/

/-- A start raises CmdError where R180 refuses it, and no error else. -/
theorem txStart_error_cases (useBuf : Bool) (slot : SlotNo) (s : State) :
    (transmitRefused s useBuf slot.toNat ∧ txStart useBuf slot s = s.raiseCmdErr) ∨
    (¬ transmitRefused s useBuf slot.toNat ∧ s.host.NoErrorRaised (txStart useBuf slot s).host) := by
  by_cases refused : transmitRefused s useBuf slot.toNat
  · exact .inl ⟨refused, txStart_refused useBuf slot s ((s.txStartRefused_iff useBuf slot).mpr refused)⟩
  · refine .inr ⟨refused, ?_⟩
    rw [txStart_latch_frame refused]
    exact ⟨id, id⟩

/-- COLLECT raises no error (R241). -/
theorem cmdCollect_noErrorRaised (s : State) : s.host.NoErrorRaised (cmdCollect s).host := by
  obtain ⟨_, _, frame⟩ := cmdCollect_frame s
  rw [frame]
  exact .refl _

/-- A write of STATUS raises no error: it clears flags only (R215). -/
theorem State.clearSticky_noErrorRaised (s : State) (w : Word) : s.host.NoErrorRaised (s.clearSticky w).host where
  cmdErr := Bool.and_elim_left
  accErr := Bool.and_elim_left

/-- A legal word written to CMD starts a transmission where its OP is 5 or 6, and raises no error where it is below (R241). -/
theorem runCommand_legal_cases {w : Word} (legal : ¬ illegalCommand w) (s : State) :
    (w.toNat % 256 = 5 ∧ runCommand w s = txStart false (commandArg w) s) ∨
    (w.toNat % 256 = 6 ∧ runCommand w s = txStart true 0 s) ∨
    (w.toNat % 256 < 5 ∧ s.host.NoErrorRaised (runCommand w s).host) := by
  have atMostSix : w.toNat % 256 ≤ 6 := by
    simp only [illegalCommand, not_or] at legal
    omega
  rw [illegalCommand_iff_fields] at legal
  rw [runCommand, if_neg legal, commandOp_toNat]
  generalize w.toNat % 256 = op at atMostSix ⊢
  interval_cases op
  -- NOP, START, STOP and RESET leave the flags; then COLLECT, TX_BANK and TX_BUF
  iterate 4 exact .inr (.inr ⟨by decide, .refl _⟩)
  · exact .inr (.inr ⟨by decide, cmdCollect_noErrorRaised s⟩)
  · exact .inl ⟨rfl, rfl⟩
  · exact .inr (.inl ⟨rfl, rfl⟩)

/-- A CMD write raises CmdError for the causes of R241, and no error else. -/
theorem runCommand_error_cases (w : Word) (s : State) :
    (s.RefusesCommand (.wrCmd w) ∧ runCommand w s = s.raiseCmdErr) ∨
    (¬ s.RefusesCommand (.wrCmd w) ∧ s.host.NoErrorRaised (runCommand w s).host) := by
  by_cases illegal : illegalCommand w
  · exact .inl ⟨Or.inl illegal, runCommand_of_illegal illegal s⟩
  · have causes : s.RefusesCommand (.wrCmd w) ↔ (w.toNat % 256 = 5 ∧ transmitRefused s false (commandArg w).toNat) ∨
        (w.toNat % 256 = 6 ∧ transmitRefused s true (0 : SlotNo).toNat) := by
      rw [commandArg_toNat]
      exact or_iff_right illegal
    rw [causes]
    obtain ⟨op, runs⟩ | ⟨op, runs⟩ | ⟨op, quiet⟩ := runCommand_legal_cases illegal s
    · simpa only [op, runs, true_and, Nat.reduceEqDiff, false_and, or_false] using
        txStart_error_cases false (commandArg w) s
    · simpa only [op, runs, true_and, Nat.reduceEqDiff, false_and, false_or] using txStart_error_cases true 0 s
    · exact .inr ⟨fun refused => by omega, quiet⟩

/-- An instruction raises AccError for the causes of R242 that are its own, or CmdError for those of R241, and has no other
effect then; for any other instruction neither error is raised. -/
theorem exec_error_cases (i : Instr) (s : State) :
    ∃ t, exec i s = .next t ∧
      ((s.RefusesData i ∧ t = s.raiseAccErr) ∨ (s.RefusesCommand i ∧ t = s.raiseCmdErr) ∨
        (¬ s.RefusesData i ∧ ¬ s.RefusesCommand i ∧ s.host.NoErrorRaised t.host)) := by
  cases i with
  | wrTxCount w =>
    refine ⟨_, txCountWrite w s, ?_⟩
    rw [State.refusesData_wrTxCount_iff]
    split
    · next accepted => exact .inr (.inr ⟨not_not.mpr accepted, id, .refl _⟩)
    · next refused => exact .inl ⟨refused, rfl⟩
  | wrTxData w =>
    rw [State.refusesData_wrTxData_iff]
    by_cases accepted : s.tx.busy = false ∧ s.tx.index.toNat < s.cfg.capacity ∧ w.toNat < 65536
    · obtain ⟨idle, room, fits⟩ := accepted
      exact ⟨_, exec_wrTxData_accepted idle room fits, .inr (.inr ⟨not_not.mpr ⟨idle, room, fits⟩, id, .refl _⟩)⟩
    · exact ⟨_, exec_wrTxData_refused accepted, .inl ⟨accepted, rfl⟩⟩
  | wrCmd w => exact ⟨_, rfl, .inr ((runCommand_error_cases w s).imp_right (And.intro id))⟩
  | txBank slot => exact ⟨_, rfl, .inr ((txStart_error_cases false slot s).imp_right (And.intro id))⟩
  | txBuf => exact ⟨_, rfl, .inr ((txStart_error_cases true 0 s).imp_right (And.intro id))⟩
  | collect => exact ⟨_, rfl, .inr (.inr ⟨id, id, cmdCollect_noErrorRaised s⟩)⟩
  | wrStatus w => exact ⟨_, rfl, .inr (.inr ⟨id, id, s.clearSticky_noErrorRaised w⟩)⟩
  | _ => exact ⟨_, rfl, .inr (.inr ⟨id, id, id, id⟩)⟩

/-- No instruction can be refused both as data and as a command (R242). -/
theorem State.not_refusesCommand_of_refusesData {s : State} {i : Instr} (data : s.RefusesData i) :
    ¬ s.RefusesCommand i := by
  cases i with
  | wrTxCount w | wrTxData w => exact id
  | _ => exact data.elim

/-- An instruction raises CmdError exactly for the causes of R241, and has no other effect then. -/
theorem exec_raises_cmdErr (i : Instr) (s : State) :
    ∃ t, exec i s = .next t ∧ (s.RefusesCommand i → t = s.raiseCmdErr) ∧
      (s.host.cmdErr = false → (t.host.cmdErr = true ↔ s.RefusesCommand i)) := by
  obtain ⟨t, runs, ⟨data, rfl⟩ | ⟨command, rfl⟩ | ⟨-, legal, quiet⟩⟩ := exec_error_cases i s
  · have legal := State.not_refusesCommand_of_refusesData data
    exact ⟨_, runs, fun command => absurd command legal, fun clear => by simp [clear, legal]⟩
  · exact ⟨_, runs, fun _ => rfl, fun _ => iff_of_true rfl command⟩
  · refine ⟨t, runs, fun command => absurd command legal, fun clear => iff_of_false (fun raised => ?_) legal⟩
    exact Bool.false_ne_true (clear.symm.trans (quiet.cmdErr raised))

/-- Settles O20: the causes the statement lists are those of `State.RefusesCommand`, instruction by instruction. -/
theorem cmdErrorCauses : Obligations.CmdErrorCauses := by
  intro i s
  cases i <;> exact exec_raises_cmdErr _ s

/-! ### The accesses that do not decode -/

/-- The accesses, of an offset `o` of the window, that R87 refuses whatever the state: those of the causes of R242 that are
no refused data. -/
abbrev Undecoded (a : BusAccess) (o : Nat) : Prop :=
  a.size ≠ 4 ∨ o % 4 ≠ 0 ∨ 0x80 ≤ o ∨ (a.write = false ∧ o = 0x08) ∨ (a.write = true ∧ ¬ writable o)

/-- A write of `w` at offset `o` of the window is one of TX_COUNT or TX_DATA that R191 or R193 refuses. -/
abbrev State.RefusesDataAt (s : State) (o : Nat) (w : Word) : Prop :=
  (o = 0x4C ∧ (s.tx.busy = true ∨ s.cfg.capacity < w.toNat)) ∨
  (o = 0x54 ∧ (s.tx.busy = true ∨ s.cfg.capacity ≤ s.tx.index.toNat ∨ 65536 ≤ w.toNat))

/-- The causes of R242: the access does not decode, or it writes data that is refused. -/
theorem illegalAccess_iff (s : State) (a : BusAccess) (o : Nat) :
    illegalAccess s a o ↔ Undecoded a o ∨ (a.write = true ∧ s.RefusesDataAt o a.wdata) := by
  simp only [illegalAccess, Undecoded, State.RefusesDataAt, and_or_left, or_assoc]

/-- The write column of R84 refuses the registers that are not written. -/
theorem not_writable_of_decodeWrite {o : Nat} {w : Word} {e : Reject} (h : decodeWrite o w = .error e) : ¬ writable o := by
  unfold decodeWrite at h
  split at h
  case h_11 =>
    simp only [imp_false] at *
    simp [*]
  all_goals cases h

/-- A row of the write column is a register that is written; it refuses data where it is TX_COUNT or TX_DATA (R191, R193). -/
theorem refusesData_of_decodeWrite {o : Nat} {w : Word} {i : Instr} (h : decodeWrite o w = .ok i) (s : State) :
    writable o ∧ (s.RefusesData i ↔ s.RefusesDataAt o w) := by
  unfold decodeWrite at h
  split at h <;> cases h <;> simp [State.RefusesData, State.RefusesDataAt]

/-- The read column of R84 refuses CMD alone, among the registers. -/
theorem eq_cmd_of_decodeRead {o : Nat} {e : Reject} (aligned : o % 4 = 0) (register : o < 0x80)
    (h : decodeRead o = .error e) : o = 0x08 := by
  unfold decodeRead at h
  split at h
  case h_3 => rfl
  case h_33 =>
    simp only [imp_false] at *
    omega
  all_goals cases h

/-- A row of the read column is not CMD, and refuses no data. -/
theorem not_refusesData_of_decodeRead {o : Nat} {i : Instr} (h : decodeRead o = .ok i) (s : State) :
    o ≠ 0x08 ∧ ¬ s.RefusesData i := by
  unfold decodeRead at h
  split at h <;> cases h <;> exact ⟨by decide, id⟩

@[simp] theorem codeWrite_busCode (write : Bool) (offset : BitVec 8) : codeWrite (busCode write offset) = write := by
  rw [codeWrite, busCode, BitVec.getLsbD_append]
  simp

@[simp] theorem codeOffset_busCode (write : Bool) (offset : BitVec 8) : codeOffset (busCode write offset) = offset :=
  BitVec.extractLsb'_append_eq_right

/-- An access that is not decoded is one that R87 refuses. -/
theorem undecoded_of_error {a : BusAccess} {offset : BitVec 8} {e : Reject}
    (h : decodeAccess a.write offset a.size a.wdata = .error e) : Undecoded a offset.toNat := by
  unfold decodeAccess decodeBus at h
  simp only [codeWrite_busCode, codeOffset_busCode] at h
  split at h
  · next size => exact .inl size
  split at h
  · next misaligned => exact .inr (.inl misaligned)
  split at h
  · next reserved => exact .inr (.inr (.inl reserved))
  next aligned register =>
  split at h
  · next write => exact .inr (.inr (.inr (.inr ⟨write, not_writable_of_decodeWrite h⟩)))
  · next read =>
    exact .inr (.inr (.inr (.inl ⟨Bool.eq_false_iff.mpr read,
      eq_cmd_of_decodeRead (not_not.mp aligned) (Nat.not_le.mp register) h⟩)))

/-- An access that is decoded is not one that R87 refuses; the data it may be refused for is that of a write of TX_COUNT or
of TX_DATA. -/
theorem decoded_of_ok {a : BusAccess} {offset : BitVec 8} {i : Instr}
    (h : decodeAccess a.write offset a.size a.wdata = .ok i) (s : State) :
    ¬ Undecoded a offset.toNat ∧ (s.RefusesData i ↔ a.write = true ∧ s.RefusesDataAt offset.toNat a.wdata) := by
  unfold decodeAccess decodeBus at h
  simp only [codeWrite_busCode, codeOffset_busCode] at h
  split at h
  · cases h
  split at h
  · cases h
  split at h
  · cases h
  next size aligned register =>
  split at h
  · next write =>
    obtain ⟨isWritable, refuses⟩ := refusesData_of_decodeWrite h s
    simp [Undecoded, size, aligned, register, write, isWritable, refuses]
  · next read =>
    obtain ⟨notCmd, refuses⟩ := not_refusesData_of_decodeRead h s
    simp [Undecoded, size, aligned, register, read, notCmd, refuses]

/-! ### A host access -/

/-- Outside reset, an access that does not decode is refused (R242). -/
theorem step_of_refused_access {s : State} {a : BusAccess} {rest : List Input} {offset : BitVec 8} {e : Reject}
    (head : s.env.inputs = .access a :: rest) (running : s.env.rst = false) (addr : a.addr = s.cfg.base + offset.toNat)
    (refused : decodeAccess a.write offset a.size a.wdata = .error e) :
    step s = .next ((s.setInputs rest).refuseAccess a.write) := by
  simp only [step, nextEvent, head, runInput, busAccess, State.setInputs_cfg, addr, windowOffset_of_offset, accessAt,
    State.setInputs_rst, running, refused, Bool.false_eq_true, if_false]

/-- Outside reset, an access of the window is refused where R242 says so, and has no other effect then; any other access leaves
AccError as it was, or clears it. -/
theorem step_access_cases {s : State} {a : BusAccess} {rest : List Input} {offset : BitVec 8}
    (head : s.env.inputs = .access a :: rest) (running : s.env.rst = false) (addr : a.addr = s.cfg.base + offset.toNat) :
    ∃ t, step s = .next t ∧
      ((illegalAccess s a offset.toNat ∧ t = (s.setInputs rest).refuseAccess a.write) ∨
        (¬ illegalAccess s a offset.toNat ∧ (t.host.accErr = true → s.host.accErr = true))) := by
  rw [illegalAccess_iff]
  cases decoded : decodeAccess a.write offset a.size a.wdata with
  | error e =>
    exact ⟨_, step_of_refused_access head running addr decoded, .inl ⟨.inl (undecoded_of_error decoded), rfl⟩⟩
  | ok i =>
    obtain ⟨isDecoded, refuses⟩ := decoded_of_ok decoded (s.setInputs rest)
    obtain ⟨t, runs, effect⟩ := exec_error_cases i (s.setInputs rest)
    rw [or_iff_right isDecoded]
    refine ⟨t, (step_of_access head running addr decoded).trans runs, ?_⟩
    obtain ⟨data, rfl⟩ | ⟨command, rfl⟩ | ⟨legal, -, quiet⟩ := effect
    · have illegal := refuses.mp data
      have write : a.write = true := illegal.1
      exact .inl ⟨illegal, by rw [write]; rfl⟩
    · exact .inr ⟨fun illegal => State.not_refusesCommand_of_refusesData (refuses.mpr illegal) command, id⟩
    · exact .inr ⟨fun illegal => legal (refuses.mpr illegal), quiet.accErr⟩

/-- Settles O8, by whether the access is refused: a refused one leaves CMD_ERR, and any other raises no AccError. -/
theorem accErrorCauses : Obligations.AccErrorCauses := by
  intro s a rest offset head running addr
  obtain ⟨t, runs, ⟨illegal, rfl⟩ | ⟨legal, quiet⟩⟩ := step_access_cases head running addr
  · refine ⟨_, runs, fun _ => ?_, fun _ => iff_of_true ?_ illegal, ?_⟩
    · cases a.write <;> rfl
    · rw [State.refuseAccess_eq]
    · rw [State.refuseAccess_eq]
      rintro ⟨-, -, clear, raised⟩
      exact Bool.false_ne_true (clear.symm.trans raised)
  · have notRaised (clear : s.host.accErr = false) : ¬ t.host.accErr = true := fun raised =>
      Bool.false_ne_true (clear.symm.trans (quiet raised))
    exact ⟨t, runs, fun illegal => absurd illegal legal, fun clear => iff_of_false (notRaised clear) legal,
      fun ⟨clear, raised, _⟩ => notRaised clear raised⟩

end Sys2Proof.Machine
end

section
/-! Hardware reset (spec/70_reset_and_hazards.md R260, R261): the state it leaves, whatever stood before; what the ports and
STATUS show there; and the block while `rst` is asserted. -/

namespace Sys2Proof.Machine
open Sys2Proof.Claims

/-! ### The state at reset -/

/-- The reference configuration is legal (R5). -/
theorem reference_legal : Config.Params.reference.Legal := by decide

theorem State.reset_atReset : State.reset.AtReset := ⟨rfl, rfl, rfl, rfl, rfl⟩

/-- Settles O15: reset values in a legal configuration meet the invariant. -/
theorem invariantHoldsAtReset : Obligations.InvariantHoldsAtReset := State.inv_of_atReset reference_legal State.reset_atReset

/-- Asserting `rst`, or ending a reset, is a hardware reset that besides sets the level of `rst` and the reset count. -/
theorem State.driveRst_resets {s : State} {level : Bool} (h : level = true ∨ s.env.rst = true) :
    ∃ epoch, s.driveRst level = s.hardwareReset.setEnv { s.env with rst := level, epoch := epoch } := by
  obtain ⟨rfl, asserted⟩ | ⟨rfl, -, released⟩ | ⟨rfl, running, -⟩ := s.driveRst_cases level
  · exact ⟨_, asserted⟩
  · exact ⟨_, released⟩
  · simp [running] at h

/-- So it leaves the reset values (R260), with the level driven. -/
theorem State.driveRst_atReset {s : State} {level : Bool} (h : level = true ∨ s.env.rst = true) :
    (s.driveRst level).AtReset ∧ (s.driveRst level).env.rst = level ∧ (s.driveRst level).env.inputs = s.env.inputs := by
  obtain ⟨_, resets⟩ := State.driveRst_resets h
  rw [resets]
  exact ⟨⟨rfl, rfl, rfl, rfl, rfl⟩, rfl, rfl⟩

/-! ### The outputs at reset -/

/-- No sticky flag is set and no sequence is ready, so no source pulls the interrupt line (R243, R260). -/
theorem State.AtReset.irq {s : State} (h : s.AtReset) : s.irq = false := by
  obtain ⟨-, cap, -, -, host⟩ := h
  rw [State.irq, cap, host]
  rfl

/-- An empty bank of one slot or more is not full (R163, R260). -/
theorem State.AtReset.bankFull {s : State} (h : s.AtReset) (someSlot : 1 ≤ s.cfg.bankCap) : s.bankFull = false := by
  obtain ⟨-, -, bank, -, -⟩ := h
  have notFull : (0 : SlotNo).toNat ≠ s.cfg.bankCap := (Nat.zero_lt_of_lt someSlot).ne
  rw [State.bankFull, bank]
  exact decide_eq_false notFull

/-- STATUS shows the two input levels, which reset to 1, and nothing else (R31, R260). -/
theorem State.AtReset.statusWord {s : State} (h : s.AtReset) (someSlot : 1 ≤ s.cfg.bankCap) :
    s.statusWord = 0x000000C0 := by
  have notFull := h.bankFull someSlot
  obtain ⟨tb, cap, bank, tx, host⟩ := h
  have inputHigh : s.tb.inPrev = true := by rw [tb]; rfl
  rw [State.statusWord, notFull, inputHigh, cap, bank, tx, host]
  decide

/-- Settles O10: the level of `rst` is a hardware reset, and the values are read off the state it leaves. -/
theorem hardwareResetValues : Obligations.HardwareResetValues := by
  intro s level rest head resetting
  obtain ⟨atReset, rst, inputs⟩ := State.driveRst_atReset (s := s.setInputs rest) resetting
  have cfg : ((s.setInputs rest).driveRst level).cfg = s.cfg := State.driveRst_cfg _ _
  refine ⟨_, step_of_inputs head, cfg, rst, inputs, ?_⟩
  generalize (s.setInputs rest).driveRst level = t at atReset cfg ⊢
  have irq := atReset.irq
  have status := atReset.statusWord
  obtain ⟨tb, cap, bank, tx, host⟩ := atReset
  rw [cfg] at tb status
  simp only [State.irOutPort, State.txActivePort, tb, cap, bank, tx, host, irq, TimeBase.reset, Session.reset,
    SignalBank.reset, Transmitter.reset, HostRegs.reset, true_and]
  exact status

/-! ### The block in reset -/

/-- In reset, an access of the window returns 0 where it is a read, and does nothing else (R261). -/
theorem step_of_access_in_reset {s : State} {a : BusAccess} {rest : List Input} {offset : BitVec 8}
    (head : s.env.inputs = .access a :: rest) (held : s.env.rst = true) (addr : a.addr = s.cfg.base + offset.toNat) :
    step s = .next (if a.write then s.setInputs rest else (s.setInputs rest).respond 0) := by
  simp only [step_of_inputs head, runInput, busAccess, State.setInputs_cfg, addr, windowOffset_of_offset, accessAt,
    State.setInputs_rst, held, if_true]

/-- Settles O9: by the event at the head of the list; the microsecond after the reset counts from 0. -/
theorem blockHeldDuringReset : Obligations.BlockHeldDuringReset := by
  intro s rest held
  refine ⟨fun a offset head addr => step_of_access_in_reset head held addr, fun lvl head => ?_, fun lvl head => ?_⟩
  · rw [step_of_inputs head, runInput, State.passMicrosecond, State.setInputs_rst, if_pos held]
    rfl
  · obtain ⟨atReset, released, listed⟩ :=
      State.driveRst_atReset (s := s.setInputs (.microsecond lvl :: rest)) (level := false) (.inr held)
    refine ⟨_, _, step_of_inputs head, atReset, released, step_of_inputs listed, ?_⟩
    obtain ⟨tb, -⟩ := atReset
    rw [State.passMicrosecond_now, State.setInputs_rst, released, State.setInputs_tb, tb]
    rfl

end Sys2Proof.Machine
end
